-- ==== Sys2Proof/Word.lean ====
section
/-! DEFINITION. The two word types of the block (spec/00_scope.md R6) and the packed descriptor word (R66). -/

namespace Sys2Proof

/-- A 16-bit unsigned address, of memory space or of I/O space (R6, R40). -/
abbrev Addr := BitVec 16

/-- An 8-bit unsigned data byte (R6, R44): the only width the block moves. -/
abbrev Byte := BitVec 8

/-- A bus-request descriptor in the packed 32-bit form of R66. -/
abbrev PackedWord := BitVec 32

end Sys2Proof
end

