-- ==== Sys2Proof/Syntax.lean ====
section
/-! DEFINITION. What the block decodes and what its agents do: the bus-request descriptor (R65), the eleven
cycle kinds that are its instructions (R12, R67), the host's events (R135 to R141) and the device events the
block emits (R32). -/

namespace Sys2Proof

/-- The one format of a request and of its answer (R65): every field is present on every tick.
`interruptPending` is driven by the block and ignored in an incoming descriptor (R66, R91). -/
structure BusRequest where
  address          : Addr
  data             : Byte
  isMemoryCycle    : Bool
  isIoCycle        : Bool
  isRead           : Bool
  isWrite          : Bool
  isInterruptAck   : Bool
  interruptPending : Bool
  deriving DecidableEq, Repr, Inhabited

/-- The names of the eleven cycle kinds (R12, R67). -/
inductive CycleKind where
  | idle | busConflict
  | memRead | memWrite | memNone | memRwConflict
  | intAck
  | ioRead | ioWrite | ioNone | ioRwConflict
  deriving DecidableEq, Repr

/-- The instructions of the block: one constructor per row of spec/opcode_table.json.
Each carries the address and data fields of its row, and exactly those of the control bits R, W and K that its row
leaves as x (R68), because the returned descriptor carries them back as they came (R92). The control bits a row
fixes, and the incoming interruptPending bit, which every kind ignores (R73), are not operands. Every operand's
width is in its type, so every value of this type is a well-formed instruction. -/
inductive Instr where
  /-- IDLE (R87): neither a memory nor an I/O request; R, W and K are ignored. -/
  | idle (isRead isWrite isInterruptAck : Bool) (address : Addr) (data : Byte)
  /-- BUS_CONFLICT (R88), reserved: both a memory and an I/O request; R, W and K are ignored. -/
  | busConflict (isRead isWrite isInterruptAck : Bool) (address : Addr) (data : Byte)
  /-- MEM_READ (R97); K is ignored (R101: the opcode fetch sets it). -/
  | memRead (isInterruptAck : Bool) (address : Addr) (data : Byte)
  /-- MEM_WRITE (R98); K is ignored. -/
  | memWrite (isInterruptAck : Bool) (address : Addr) (data : Byte)
  /-- MEM_NONE (R99): a memory cycle with neither read nor write; K is ignored. -/
  | memNone (isInterruptAck : Bool) (address : Addr) (data : Byte)
  /-- MEM_RW_CONFLICT (R100), reserved; K is ignored. -/
  | memRwConflict (isInterruptAck : Bool) (address : Addr) (data : Byte)
  /-- INT_ACK (R130); R and W are ignored. -/
  | intAck (isRead isWrite : Bool) (address : Addr) (data : Byte)
  /-- IO_READ (R105). -/
  | ioRead (address : Addr) (data : Byte)
  /-- IO_WRITE (R106). -/
  | ioWrite (address : Addr) (data : Byte)
  /-- IO_NONE (R107): an I/O cycle with neither read, write nor acknowledge. -/
  | ioNone (address : Addr) (data : Byte)
  /-- IO_RW_CONFLICT (R108), reserved. -/
  | ioRwConflict (address : Addr) (data : Byte)
  deriving DecidableEq, Repr

/-- The cycle kind an instruction is of: its row's name. -/
def Instr.kind : Instr → CycleKind
  | .idle ..          => .idle
  | .busConflict ..   => .busConflict
  | .memRead ..       => .memRead
  | .memWrite ..      => .memWrite
  | .memNone ..       => .memNone
  | .memRwConflict .. => .memRwConflict
  | .intAck ..        => .intAck
  | .ioRead ..        => .ioRead
  | .ioWrite ..       => .ioWrite
  | .ioNone ..        => .ioNone
  | .ioRwConflict ..  => .ioRwConflict

/-- The two sides of the display controller that the sub-identifier selects (R71):
0 is the command or status side, 1 the data side. -/
inductive LcdSide where
  | command | data
  deriving DecidableEq, Repr

/-- The device events of TRACE (R32): the block's calls to its external collaborators, in order. -/
inductive DeviceEvent where
  /-- TermOut(b): a terminal write (R111). -/
  | termOut (b : Byte)
  /-- LcdCmd(b): a display-controller command write (R113). -/
  | lcdCmd (b : Byte)
  /-- LcdData(b): a display-controller data write (R113). -/
  | lcdData (b : Byte)
  /-- LcdRead(sub, b): a display-controller read and the byte it drew (R114). -/
  | lcdRead (side : LcdSide) (b : Byte)
  deriving DecidableEq, Repr

/-- What may happen between two services (R135). None is bus-encoded (R12). -/
inductive HostEvent where
  /-- H_RAISE (R136). -/
  | raise
  /-- H_KEY(b) (R137). -/
  | key (b : Byte)
  /-- H_STOP (R138). -/
  | stop
  /-- Display refresh (R139). -/
  | refresh
  /-- Inter-tick delay (R140). -/
  | delay
  /-- A reset of the CPU core, which is no reset of the block (R168). -/
  | cpuReset
  deriving DecidableEq, Repr

/-- One action of an agent on the block (R5): the CPU core presents a descriptor for one tick,
or a host event happens between ticks. -/
inductive Input where
  | tick (req : BusRequest)
  | host (e : HostEvent)
  deriving DecidableEq, Repr, Inhabited

end Sys2Proof
end

