-- ==== Sys2Proof/Config.lean ====
section
/-! DEFINITION. What is fixed when the block is constructed (R7), the reference configurations of R8, and the
free values: the constants with no body that stand for what comes from outside the block. -/

namespace Sys2Proof

/-- How an out-of-range bank value is brought into range (R7 BANK_POLICY, R25). -/
inductive BankPolicy where
  | mask | clamp
  deriving DecidableEq, Repr

/-- How a device identifier is derived from an I/O address (R7 DEVID_POLICY, R70). -/
inductive DevIdPolicy where
  | low3 | low7 | low7HiBank
  deriving DecidableEq, Repr

/-- The number k of low address bits that make the identifier (R9, R70). -/
def DevIdPolicy.width : DevIdPolicy → Nat
  | .low3 => 3
  | .low7 => 7
  | .low7HiBank => 7

/-- The three canonical devices (R72, R119). -/
inductive Device where
  | terminal | bankSel | lcd
  deriving DecidableEq, Repr

/-- A region of memory space: its first CPU address and its size in bytes (R7). The base is an address,
so its domain 0..0xFFFF is in its type. -/
structure Span where
  base : Addr
  size : Nat
  deriving DecidableEq, Repr

/-- `a` lies in the region: BASE <= a < BASE + SIZE, in unbounded integers (R10, R41). -/
abbrev Span.contains (r : Span) (a : Addr) : Prop :=
  r.base.toNat ≤ a.toNat ∧ a.toNat < r.base.toNat + r.size

/-- The parameters of R7, fixed at construction. `deviceMap` is the partial map DEVICE_MAP as a list of
(identifier, device) pairs; an identifier it does not list is unregistered (R72), and the first pair of an identifier
counts (DESIGN CHOICE, log entry 11). -/
structure Config where
  rom           : Span
  ram           : Span
  win           : Span
  bankCount     : Nat
  bankPolicy    : BankPolicy
  devIdPolicy   : DevIdPolicy
  deviceMap     : List (Nat × Device)
  lcdSubBit     : Nat
  hiBankBit     : Nat
  irqVector     : Byte
  kbdReadClears : Bool
  deriving DecidableEq, Repr

/-- MULTI_BANK of R8, the spec's default for its test vectors. -/
def Config.multiBank : Config where
  rom           := ⟨0x0000, 0x4000⟩
  ram           := ⟨0x4000, 0x4000⟩
  win           := ⟨0x8000, 0x8000⟩
  bankCount     := 4
  bankPolicy    := .mask
  devIdPolicy   := .low3
  deviceMap     := [(0, .terminal), (1, .bankSel), (2, .lcd), (3, .lcd)]
  lcdSubBit     := 0
  hiBankBit     := 7
  irqVector     := 0xFF
  kbdReadClears := false

/-- FLAT of R8. -/
def Config.flat : Config :=
  { Config.multiBank with
    rom := ⟨0x0000, 0x8000⟩, ram := ⟨0x8000, 0x8000⟩, win := ⟨0x0000, 0⟩, bankCount := 1 }

/-- SINGLE_BANK of R8. -/
def Config.singleBank : Config := { Config.multiBank with bankCount := 1 }

/-- HOLES of R8. -/
def Config.holes : Config :=
  { Config.multiBank with
    rom := ⟨0x0000, 0x2000⟩, ram := ⟨0x4000, 0x2000⟩, win := ⟨0x8000, 0x4000⟩ }

/-- DESIGN CHOICE (log entry 5): the byte the external display controller gives on a read (R114, decision D14),
a free value. It may depend on the side read, on every event the block has emitted so far, and on how many
bytes have been drawn; nothing is known of it. -/
opaque Config.lcdRead (side : LcdSide) (history : List DeviceEvent) (draw : Nat) : Byte

/-- DESIGN CHOICE (log entry 4): what the CPU core or the host does next when State's queue of inputs is empty
(R5, R135: any number of host events in any order; R175: an unbounded run), a free value of the draw's number. -/
opaque Config.agentInput (draw : Nat) : Input

end Sys2Proof
end

