-- ==== Sys2Proof/Decode.lean ====
section
/-! DEFINITION. The packed word of R66, the decoding of its control bits into a cycle kind (R67), the opcode table's
masks and matches (R68), and the encoder. -/

namespace Sys2Proof

/-- The record a packed word stands for (R66). Bits 31:30 are reserved and ignored. -/
def unpack (w : PackedWord) : BusRequest where
  address          := w.extractLsb' 0 16
  data             := w.extractLsb' 16 8
  isMemoryCycle    := w.getLsbD 24
  isIoCycle        := w.getLsbD 25
  isRead           := w.getLsbD 26
  isWrite          := w.getLsbD 27
  isInterruptAck   := w.getLsbD 28
  interruptPending := w.getLsbD 29

/-- Bit `pos` of a word, holding the Boolean `b`. -/
def bitAt (pos : Nat) (b : Bool) : PackedWord := (BitVec.ofBool b).setWidth 32 <<< pos

/-- The packed word of a record (R66): each field at its bits; bits 31:30 are written 0 (DEDUCED, log entry 10). -/
def pack (r : BusRequest) : PackedWord :=
  r.address.setWidth 32 ||| r.data.setWidth 32 <<< 16 ||| bitAt 24 r.isMemoryCycle ||| bitAt 25 r.isIoCycle |||
    bitAt 26 r.isRead ||| bitAt 27 r.isWrite ||| bitAt 28 r.isInterruptAck ||| bitAt 29 r.interruptPending

/-- kind(req), with the operands of the kind found: the tests of R67, in its order. The incoming
interruptPending bit is ignored (R73). No descriptor is refused: the rows cover every value of the five
control bits (R68). -/
def decodeRequest (req : BusRequest) : Instr :=
  if req.isMemoryCycle && req.isIoCycle then
    .busConflict req.isRead req.isWrite req.isInterruptAck req.address req.data
  else if !req.isMemoryCycle && !req.isIoCycle then
    .idle req.isRead req.isWrite req.isInterruptAck req.address req.data
  else if req.isMemoryCycle then
    if req.isRead && req.isWrite then .memRwConflict req.isInterruptAck req.address req.data
    else if req.isRead then .memRead req.isInterruptAck req.address req.data
    else if req.isWrite then .memWrite req.isInterruptAck req.address req.data
    else .memNone req.isInterruptAck req.address req.data
  else if req.isInterruptAck then .intAck req.isRead req.isWrite req.address req.data
  else if req.isRead && req.isWrite then .ioRwConflict req.address req.data
  else if req.isRead then .ioRead req.address req.data
  else if req.isWrite then .ioWrite req.address req.data
  else .ioNone req.address req.data

/-- The instruction a packed descriptor word stands for; total, since every word is of exactly one kind (R68). -/
def decode (w : PackedWord) : Instr := decodeRequest (unpack w)

/-- Why a string of bits is not a descriptor. -/
inductive DecodeError where
  /-- It is wider than the one fixed width of 32 bits (R66, R74). -/
  | tooWide (nbits : Nat)
  deriving DecidableEq, Repr

/-- The descriptor word whose low `nbits` bits are those of `w`, every bit above them 0. -/
def wordOfBits (nbits w : Nat) : PackedWord := BitVec.ofNat 32 (w % 2 ^ nbits)

/-- Decoding of `nbits` bits given as a number; more than 32 bits are rejected by name (DESIGN CHOICE, log
entry 14). -/
def decodeBits (nbits w : Nat) : Except DecodeError Instr :=
  if nbits ≤ 32 then .ok (decode (wordOfBits nbits w)) else .error (.tooWide nbits)

/-- The instruction the decoder reads from the bits `w` of an opcode-table row `nbits` wide. -/
def decodeTableWord (nbits w : Nat) : Option Instr :=
  match decodeBits nbits w with
  | .ok i => some i
  | .error _ => none

/-- The descriptor an instruction stands for, with the incoming interruptPending bit 0: M, I, R, W and K as the
kind's row of R68 fixes them, the rest from the operands. -/
def Instr.request : Instr → BusRequest
  | .idle r w k a d          => ⟨a, d, false, false, r, w, k, false⟩
  | .busConflict r w k a d   => ⟨a, d, true, true, r, w, k, false⟩
  | .memRead k a d           => ⟨a, d, true, false, true, false, k, false⟩
  | .memWrite k a d          => ⟨a, d, true, false, false, true, k, false⟩
  | .memNone k a d           => ⟨a, d, true, false, false, false, k, false⟩
  | .memRwConflict k a d     => ⟨a, d, true, false, true, true, k, false⟩
  | .intAck r w a d          => ⟨a, d, false, true, r, w, true, false⟩
  | .ioRead a d              => ⟨a, d, false, true, true, false, false, false⟩
  | .ioWrite a d             => ⟨a, d, false, true, false, true, false, false⟩
  | .ioNone a d              => ⟨a, d, false, true, false, false, false, false⟩
  | .ioRwConflict a d        => ⟨a, d, false, true, true, true, false, false⟩

/-- The packed word of an instruction (R66, R68), the ignored bits P and 31:30 written 0. -/
def encode (i : Instr) : PackedWord := pack i.request

/-- The column `mask` of R68's table. -/
def CycleKind.rowMask : CycleKind → PackedWord
  | .idle          => 0x03000000
  | .busConflict   => 0x03000000
  | .memRead       => 0x0F000000
  | .memWrite      => 0x0F000000
  | .memNone       => 0x0F000000
  | .memRwConflict => 0x0F000000
  | .intAck        => 0x13000000
  | .ioRead        => 0x1F000000
  | .ioWrite       => 0x1F000000
  | .ioNone        => 0x1F000000
  | .ioRwConflict  => 0x1F000000

/-- The column `match` of R68's table. -/
def CycleKind.rowMatch : CycleKind → PackedWord
  | .idle          => 0x00000000
  | .busConflict   => 0x03000000
  | .memRead       => 0x05000000
  | .memWrite      => 0x09000000
  | .memNone       => 0x01000000
  | .memRwConflict => 0x0D000000
  | .intAck        => 0x12000000
  | .ioRead        => 0x06000000
  | .ioWrite       => 0x0A000000
  | .ioNone        => 0x02000000
  | .ioRwConflict  => 0x0E000000

end Sys2Proof
end

