-- ==== Sys2Proof/Machine/State.lean ====
section
/-! DEFINITION. The state of the block (R20), the ways a step can stop, and the state after reset. -/

namespace Sys2Proof.Machine

/-- A byte array, sparse: (index, byte) pairs, indices strictly rising, no entry equal to 0x00, which is what an
unlisted index reads as (R30, R31, R166: every byte that was not loaded is 0x00). -/
abbrev Memory := List Host.Cell

/-- What an unlisted index reads as: the construction value 0x00 of RAM and bank bytes (R30, R31) and of ROM bytes
past the image (R166). -/
def Memory.unlisted : Byte := 0x00

/-- The canonical form: indices strictly rising and no entry equal to what an unlisted index reads as. -/
abbrev Memory.wf (m : Memory) : Prop :=
  m.Pairwise (fun x y => x.1 < y.1) ∧ ∀ c ∈ m, c.2 ≠ Memory.unlisted

/-- Every listed index is below the array's size. -/
abbrev Memory.within (m : Memory) (size : Nat) : Prop := ∀ c ∈ m, c.1 < size

/-- The reasons FAULT can hold (R33, R146). -/
inductive FaultReason where
  /-- M = 1 and I = 1 (R88). -/
  | busConflict
  /-- A memory cycle with R = 1 and W = 1 (R100). -/
  | memRwConflict
  /-- An I/O cycle, K = 0, with R = 1 and W = 1 (R108). -/
  | ioRwConflict
  deriving DecidableEq, Repr

/-- How the machine can stop with a fault. -/
inductive Fault where
  /-- Raised by every service and every host event taken in a state whose FAULT is set: the faulted state has no
  next step (R94, R146; DEDUCED, log entry 7). Safe: the spec gives no step there either. -/
  | faulted (reason : FaultReason)
  deriving DecidableEq, Repr

/-- How the machine can refuse an instruction. -/
inductive Refusal where
  /-- Raised by `exec` for an instruction that has no meaning in this model; no instruction is refused so.
  Safe: no next state is given. -/
  | notModelled (mnemonic : String)
  deriving DecidableEq, Repr

/-- The state. The nine fields after `config` are R20's tuple in its order; `config` and the fields after
`fault` are described in INVENTORY.md and in the log entries named. -/
structure State where
  /-- The parameters of R7 and the device table of R119, fixed at construction; no step changes them (log entry 1). -/
  config     : Config
  /-- ROM, ROM_SIZE bytes (R29). -/
  rom        : Memory
  /-- RAM, RAM_SIZE bytes (R30). -/
  ram        : Memory
  /-- BANKS, BANK_COUNT arrays of WIN_SIZE bytes (R31). -/
  banks      : List Memory
  /-- BANK, the bank register's ACTIVE_INDEX (R24). -/
  bank       : Nat
  /-- PENDING, the interrupt pending flag (R26). -/
  pending    : Bool
  /-- VECTOR, the read-only vector register (R27). -/
  vector     : Byte
  /-- KBD, the keyboard latch (R28). -/
  kbd        : Byte
  /-- TRACE, the device events so far, oldest first (R32). -/
  trace      : List DeviceEvent
  /-- FAULT (R33). -/
  fault      : Option FaultReason
  /-- The last returned descriptor (R85, R175); none before the first service (log entry 8). -/
  rsp        : Option BusRequest
  /-- The host's running flag (R138; log entry 9). -/
  running    : Bool
  /-- MODEL: what the CPU core and the host are going to do, in order (R5; log entry 4). -/
  inputs     : List Input
  /-- MODEL: how many inputs have been drawn from `Config.agentInput` (log entry 4). -/
  inputDraws : Nat
  /-- MODEL: how many bytes have been drawn from `Config.lcdRead` (log entry 5). -/
  lcdDraws   : Nat
  deriving DecidableEq, Repr

/-- The block right after H_CONSTRUCT (R165, R167), with the configuration MULTI_BANK of R8 (DESIGN CHOICE, log
entry 1), an empty ROM image (DESIGN CHOICE, log entry 2) and the drawn keyboard byte 0x00 (DESIGN CHOICE, log
entry 3). `State.construct` is construction from any configuration, image and drawn byte. -/
def State.reset : State where
  config     := Config.multiBank
  rom        := []
  ram        := []
  banks      := [[], [], [], []]
  bank       := 0
  pending    := false
  vector     := 0xFF
  kbd        := 0x00
  trace      := []
  fault      := none
  rsp        := none
  running    := true
  inputs     := []
  inputDraws := 0
  lcdDraws   := 0

end Sys2Proof.Machine
end

