-- ==== Sys2Proof/Machine/Flags.lean ====
section
/-! DEFINITION. The block has no flags and no condition codes (R23). Its one status output is the interrupt-request
line, a level (R91, R149). -/

namespace Sys2Proof.Machine

/-- The interrupt-request output in a state: the level of PENDING (R91). -/
def State.irqOutput (s : State) : Bool := s.pending

end Sys2Proof.Machine
end

