-- ==== Sys2Proof/Machine/Operands.lean ====
section
/-! DEFINITION. What a descriptor's address and data stand for: region and offset (R41), device identifier,
high bank bit and sub-identifier (R70, R71), device lookup (R72), and the bank a written byte selects (R25). -/

namespace Sys2Proof

/-- The answer of the region decoder (R41). -/
inductive Region where
  | rom | ram | win | unmapped
  deriving DecidableEq, Repr

/-- region(a): the tests of R41, in its order. -/
def Config.region (c : Config) (a : Addr) : Region :=
  if c.rom.contains a then .rom
  else if c.ram.contains a then .ram
  else if c.win.contains a then .win
  else .unmapped

/-- The offset `a - BASE` of an address inside a region, in unbounded integers (R10, R22). -/
def Span.offset (r : Span) (a : Addr) : Nat := a.toNat - r.base.toNat

/-- devId(a) (R70): the low 3 or the low 7 bits of the I/O address. -/
def Config.devId (c : Config) (a : Addr) : Nat :=
  match c.devIdPolicy with
  | .low3       => (a.extractLsb' 0 3).toNat
  | .low7       => (a.extractLsb' 0 7).toNat
  | .low7HiBank => (a.extractLsb' 0 7).toNat

/-- Whether a write to this I/O address also selects a bank (R70, R117): only under LOW7_HIBANK, and then when
a[HIBANK_BIT] = 1. -/
def Config.hiBank (c : Config) (a : Addr) : Bool :=
  match c.devIdPolicy with
  | .low7HiBank => a.getLsbD c.hiBankBit
  | .low3       => false
  | .low7       => false

/-- DEVICE_MAP(id) (R72): none is an unregistered identifier. -/
def Config.device (c : Config) (id : Nat) : Option Device := c.deviceMap.lookup id

/-- sub(id) = id[LCD_SUB_BIT] (R71). -/
def Config.lcdSide (c : Config) (id : Nat) : LcdSide :=
  if id.testBit c.lcdSubBit then .data else .command

/-- legalize(v) (R25). -/
def Config.legalize (c : Config) (v : Byte) : Nat :=
  match c.bankPolicy with
  | .mask  => v.toNat &&& (c.bankCount - 1)
  | .clamp => min v.toNat (c.bankCount - 1)

end Sys2Proof
end

