-- ==== Sys2Proof/WellFormed.lean ====
section
/-! DEFINITION. Which configurations are admitted: the nine named checks of R9. An instruction needs no check: every
operand's width is in the type Instr (R65, R74), so every term of it is well-formed. -/

namespace Sys2Proof

/-- The names of R9's checks. -/
inductive WfCheck where
  | romFits | ramFits | winFits | disjoint | bankCount | maskPow2 | devMapRange | lcdPair | hiBankBit
  deriving DecidableEq, Repr

/-- All of R9's checks, in its order. -/
def WfCheck.all : List WfCheck :=
  [.romFits, .ramFits, .winFits, .disjoint, .bankCount, .maskPow2, .devMapRange, .lcdPair, .hiBankBit]

/-- `BASE + SIZE <= 0x10000`, in unbounded integers. -/
abbrev Span.fits (r : Span) : Prop := r.base.toNat + r.size ≤ 0x10000

/-- No address lies in both regions; a region of size 0 contains no address. -/
abbrev Span.apart (r q : Span) : Prop :=
  r.size = 0 ∨ q.size = 0 ∨ r.base.toNat + r.size ≤ q.base.toNat ∨ q.base.toNat + q.size ≤ r.base.toNat

/-- One named check of R9, on a configuration. -/
def Config.passes (c : Config) : WfCheck → Bool
  | .romFits     => decide c.rom.fits
  | .ramFits     => decide c.ram.fits
  | .winFits     => decide c.win.fits
  | .disjoint    => decide (c.rom.apart c.ram ∧ c.rom.apart c.win ∧ c.ram.apart c.win)
  | .bankCount   => decide (1 ≤ c.bankCount ∧ c.bankCount ≤ 256)
  | .maskPow2    => decide (c.bankPolicy = .mask → 2 ^ c.bankCount.log2 = c.bankCount)
  | .devMapRange => c.deviceMap.all fun e => decide (e.1 < 2 ^ c.devIdPolicy.width)
  | .lcdPair     => decide (c.lcdSubBit < c.devIdPolicy.width) &&
      (List.range (2 ^ c.devIdPolicy.width)).all fun id =>
        (c.deviceMap.lookup id == some .lcd) == (c.deviceMap.lookup (id ^^^ (1 <<< c.lcdSubBit)) == some .lcd)
  | .hiBankBit   => decide (c.devIdPolicy = .low7HiBank → 7 ≤ c.hiBankBit ∧ c.hiBankBit ≤ 15)

/-- The first check of R9 that the configuration fails, if any. -/
def Config.failedCheck (c : Config) : Option WfCheck :=
  WfCheck.all.find? fun k => !c.passes k

/-- A configuration is admitted only if every named check passes (R9). -/
def Config.wellFormed (c : Config) : Bool := WfCheck.all.all c.passes

end Sys2Proof
end

