-- ==== Sys2Proof/Machine/Ops.lean ====
section
/-! DEFINITION. The named operations over the state: byte arrays, the address space (R41 to R43, R49), the bank register
(R24), the trace (R32), taking a fault (R146), answering a service (R91, R92), the next input, and construction
(R165, R166). -/

namespace Sys2Proof.Machine

/-- The byte at index `i`. -/
def Memory.read : Memory → Nat → Byte
  | [], _ => Memory.unlisted
  | (j, w) :: m, i => if i = j then w else Memory.read m i

/-- The array with byte `v` at index `i`, in canonical form: writing what an unlisted index reads as removes the
entry. -/
def Memory.write : Memory → Nat → Byte → Memory
  | [], i, v => if v = Memory.unlisted then [] else [(i, v)]
  | (j, w) :: m, i, v =>
    if i < j then (if v = Memory.unlisted then (j, w) :: m else (i, v) :: (j, w) :: m)
    else if i = j then (if v = Memory.unlisted then m else (i, v) :: m)
    else (j, w) :: Memory.write m i v

/-- The array that holds the bytes of a list from index `i` on, and 0x00 elsewhere. -/
def Memory.ofBytes : Nat → List Byte → Memory
  | _, [] => []
  | i, b :: bs =>
    if b = Memory.unlisted then Memory.ofBytes (i + 1) bs else (i, b) :: Memory.ofBytes (i + 1) bs

/-- A physical cell of the block (R52): a ROM, RAM or BANKS[b][i] byte. -/
inductive PhysCell where
  | rom (i : Nat)
  | ram (i : Nat)
  | bank (b i : Nat)
  deriving DecidableEq, Repr

/-- The bank array BANKS[b]. There is none at an index past BANK_COUNT, which BANK never holds (R24): such an array
would be empty (log entry 12). -/
def State.bankArray (s : State) (b : Nat) : Memory := s.banks.getD b []

/-- The byte a physical cell holds. -/
def State.readCell (s : State) : PhysCell → Byte
  | .rom i    => s.rom.read i
  | .ram i    => s.ram.read i
  | .bank b i => (s.bankArray b).read i

/-- Which physical cell a memory address reaches, with BANK as it stands (R41, R49); none is unmapped. -/
def State.cellOf (s : State) (a : Addr) : Option PhysCell :=
  match s.config.region a with
  | .rom      => some (.rom (s.config.rom.offset a))
  | .ram      => some (.ram (s.config.ram.offset a))
  | .win      => some (.bank s.bank (s.config.win.offset a))
  | .unmapped => none

/-- MemRead(a, 1) (R42): an unmapped address reads 0x00. -/
def State.memRead (s : State) (a : Addr) : Byte :=
  match s.cellOf a with
  | some c => s.readCell c
  | none   => 0x00

/-- MemWrite(a, 1, v) (R43): a write to ROM or to an unmapped address has no effect. -/
def State.memWrite (s : State) (a : Addr) (v : Byte) : State :=
  match s.cellOf a with
  | some (.rom _)    => s
  | some (.ram i)    => { s with ram := s.ram.write i v }
  | some (.bank b i) => { s with banks := s.banks.set b ((s.bankArray b).write i v) }
  | none             => s

/-- BANK <- legalize(v) (R24, R25, R109). -/
def State.selectBank (s : State) (v : Byte) : State := { s with bank := s.config.legalize v }

/-- emit(e): append an event to TRACE (R11, R32). -/
def State.emit (s : State) (e : DeviceEvent) : State := { s with trace := s.trace ++ [e] }

/-- PENDING <- true (R136): idempotent. -/
def State.raiseInterrupt (s : State) : State := { s with pending := true }

/-- PENDING <- false: the acknowledge's share of interrupt entry (R130, R152). The block has no return from
interrupt (R153). -/
def State.clearInterrupt (s : State) : State := { s with pending := false }

/-- raise Fault(reason) (R11, R146): FAULT is set and nothing else changes; no descriptor is returned (R88, R94). -/
def State.raiseFault (s : State) (reason : FaultReason) : State := { s with fault := some reason }

/-- Return a descriptor (R85), with the interrupt-request output driven from the state after the kind's rule (R91). -/
def State.respond (s : State) (rsp : BusRequest) : State :=
  { s with rsp := some { rsp with interruptPending := s.irqOutput } }

/-- Take one service or host event, unless FAULT is set: the faulted state takes neither (R94). That is the only condition: no
control register must be set first (R170). -/
def State.unlessFaulted (s : State) (act : State → State) : Host.Outcome State Fault Refusal :=
  match s.fault with
  | some reason => .fault (.faulted reason)
  | none        => .next (act s)

/-- What an agent does next (R5, R135), and the state without that input: the queue's head, or when the queue is
empty a free input (log entry 4). -/
def State.nextInput (s : State) : Input × State :=
  match s.inputs with
  | i :: rest => (i, { s with inputs := rest })
  | []        => (Config.agentInput s.inputDraws, { s with inputDraws := s.inputDraws + 1 })

/-- The ROM array of an image (R166): zero-padded, and truncated at ROM_SIZE. -/
def loadImage (size : Nat) (image : List Byte) : Memory := Memory.ofBytes 0 (image.take size)

/-- Why no block is built. -/
inductive ConstructError where
  /-- The configuration fails the named check of R9. -/
  | illFormed (check : WfCheck)
  /-- The ROM image is missing or unreadable (R147). -/
  | romUnreadable
  deriving DecidableEq, Repr

/-- H_CONSTRUCT (R165): `image` is none when the ROM file cannot be read, `kbd` is the byte drawn for KBD (R28). What R170 says
software boots with is read off here: the image in ROM, bank 0 selected, every bank zeroed, KBD any byte, nothing to set up. -/
def State.construct (c : Config) (image : Option (List Byte)) (kbd : Byte) : Except ConstructError State :=
  match c.failedCheck, image with
  | some k, _ => .error (.illFormed k)
  | none, none => .error .romUnreadable
  | none, some bytes => .ok {
      config     := c
      rom        := loadImage c.rom.size bytes
      ram        := []
      banks      := List.replicate c.bankCount []
      bank       := 0
      pending    := false
      vector     := c.irqVector
      kbd        := kbd
      trace      := []
      fault      := none
      rsp        := none
      running    := true
      inputs     := []
      inputDraws := 0
      lcdDraws   := 0 }

/-- Re-initialization (R169): the block is constructed again, and nothing of the old state is kept. It begins a new run
and is no step (DEDUCED, log entry 13). -/
def State.reconstruct (_old : State) (c : Config) (image : Option (List Byte)) (kbd : Byte) :
    Except ConstructError State :=
  State.construct c image kbd

end Sys2Proof.Machine
end

