-- ==== Sys2Proof/Machine/Arbiter.lean ====
section
/-! DEFINITION. The cycle kinds of the arbiter (spec/40_bus_arbiter.md): IDLE, BUS_CONFLICT. -/

namespace Sys2Proof.Machine

/-- IDLE (R87): no access; only the interrupt-request output is driven. -/
def execIdle (r w k : Bool) (a : Addr) (d : Byte) (s : State) : Host.Outcome State Fault Refusal :=
  s.unlessFaulted fun s => s.respond (Instr.idle r w k a d).request

/-- BUS_CONFLICT (R88): FAULT <- BUS_CONFLICT; the fields of the descriptor are not read. -/
def execBusConflict (_r _w _k : Bool) (_a : Addr) (_d : Byte) (s : State) : Host.Outcome State Fault Refusal :=
  s.unlessFaulted fun s => s.raiseFault .busConflict

end Sys2Proof.Machine
end

