-- ==== Sys2Proof/Machine/Interrupt.lean ====
section
/-! DEFINITION. The interrupt acknowledge cycle (spec/43_interrupt_ack.md): INT_ACK. -/

namespace Sys2Proof.Machine

/-- INT_ACK (R130, R131): rsp.data <- VECTOR and PENDING <- false, pending or not; no device handler and no bank
side effect. -/
def execIntAck (r w : Bool) (a : Addr) (d : Byte) (s : State) : Host.Outcome State Fault Refusal :=
  s.unlessFaulted fun s => s.clearInterrupt.respond { (Instr.intAck r w a d).request with data := s.vector }

end Sys2Proof.Machine
end

