-- ==== Sys2Proof/Machine/Devices.lean ====
section
/-! DEFINITION. The device handlers (R109 to R116, R120) and the dispatch to them (R105, R106, R117, R118). A read
handler answers the byte read and the state after it. -/

namespace Sys2Proof.Machine

/-- The sentinel 0x00: what a read that reaches no read handler returns (R110, R115, R120). -/
def sentinel : Byte := 0x00

/-- Terminal read (R112): KBD, which the read empties only when KBD_READ_CLEARS is true. Before the first key press KBD is
the byte drawn at construction (R170). -/
def State.terminalRead (s : State) : Byte × State :=
  (s.kbd, if s.config.kbdReadClears then { s with kbd := 0x00 } else s)

/-- Terminal write (R111). -/
def State.terminalWrite (s : State) (v : Byte) : State := s.emit (.termOut v)

/-- Bank-select read (R110): the sentinel; BANK cannot be read back. -/
def State.bankSelRead (s : State) : Byte × State := (sentinel, s)

/-- Bank-select write (R109). -/
def State.bankSelWrite (s : State) (v : Byte) : State := s.selectBank v

/-- LCD read (R114): a free byte from the external collaborator, recorded in TRACE (log entry 5). -/
def State.lcdRead (s : State) (side : LcdSide) : Byte × State :=
  let b := Config.lcdRead side s.trace s.lcdDraws
  (b, { s.emit (.lcdRead side b) with lcdDraws := s.lcdDraws + 1 })

/-- LCD write (R113). -/
def State.lcdWrite (s : State) (side : LcdSide) (v : Byte) : State :=
  match side with
  | .command => s.emit (.lcdCmd v)
  | .data    => s.emit (.lcdData v)

/-- Read of an unregistered identifier (R115). -/
def State.unregisteredRead (s : State) : Byte × State := (sentinel, s)

/-- Write to an unregistered identifier (R116): a no-op. -/
def State.unregisteredWrite (s : State) (_v : Byte) : State := s

/-- The read side of an I/O address: the one handler of DEVICE_MAP(devId(a)) (R105, R118). -/
def State.deviceRead (s : State) (a : Addr) : Byte × State :=
  let id := s.config.devId a
  match s.config.device id with
  | some .terminal => s.terminalRead
  | some .bankSel  => s.bankSelRead
  | some .lcd      => s.lcdRead (s.config.lcdSide id)
  | none           => s.unregisteredRead

/-- The high-bit bank side effect of an I/O write (R117); nothing under LOW3 and LOW7. -/
def State.hiBankWrite (s : State) (a : Addr) (v : Byte) : State :=
  if s.config.hiBank a then s.selectBank v else s

/-- The write side of an I/O address: the one handler of DEVICE_MAP(devId(a)) (R106, R118). -/
def State.deviceWrite (s : State) (a : Addr) (v : Byte) : State :=
  let id := s.config.devId a
  match s.config.device id with
  | some .terminal => s.terminalWrite v
  | some .bankSel  => s.bankSelWrite v
  | some .lcd      => s.lcdWrite (s.config.lcdSide id) v
  | none           => s.unregisteredWrite v

end Sys2Proof.Machine
end

