-- ==== Sys2Proof/Machine/IoCycles.lean ====
section
/-! DEFINITION. The I/O cycles (spec/42_io_cycles.md): IO_READ, IO_WRITE, IO_NONE, IO_RW_CONFLICT. -/

namespace Sys2Proof.Machine

/-- IO_READ (R105): the byte of the selected device's read side. A read never has the bank side effect (R117). -/
def execIoRead (a : Addr) (d : Byte) (s : State) : Host.Outcome State Fault Refusal :=
  s.unlessFaulted fun s =>
    (s.deviceRead a).2.respond { (Instr.ioRead a d).request with data := (s.deviceRead a).1 }

/-- IO_WRITE (R106): the bank side effect of R117 first, then the selected device's write side; the data is
returned as it came. -/
def execIoWrite (a : Addr) (d : Byte) (s : State) : Host.Outcome State Fault Refusal :=
  s.unlessFaulted fun s => ((s.hiBankWrite a d).deviceWrite a d).respond (Instr.ioWrite a d).request

/-- IO_NONE (R107): no access, no handler. -/
def execIoNone (a : Addr) (d : Byte) (s : State) : Host.Outcome State Fault Refusal :=
  s.unlessFaulted fun s => s.respond (Instr.ioNone a d).request

/-- IO_RW_CONFLICT (R108): FAULT <- IO_RW_CONFLICT. -/
def execIoRwConflict (_a : Addr) (_d : Byte) (s : State) : Host.Outcome State Fault Refusal :=
  s.unlessFaulted fun s => s.raiseFault .ioRwConflict

end Sys2Proof.Machine
end

