-- ==== Sys2Proof/Machine/MemoryCycles.lean ====
section
/-! DEFINITION. The memory cycles (spec/41_memory_cycles.md): MEM_READ, MEM_WRITE, MEM_NONE, MEM_RW_CONFLICT. -/

namespace Sys2Proof.Machine

/-- MEM_READ (R97), the opcode fetch included (R101): rsp.data <- MemRead(a, 1). -/
def execMemRead (k : Bool) (a : Addr) (d : Byte) (s : State) : Host.Outcome State Fault Refusal :=
  s.unlessFaulted fun s => s.respond { (Instr.memRead k a d).request with data := s.memRead a }

/-- MEM_WRITE (R98): MemWrite(a, 1, v); the data is returned as it came. -/
def execMemWrite (k : Bool) (a : Addr) (d : Byte) (s : State) : Host.Outcome State Fault Refusal :=
  s.unlessFaulted fun s => (s.memWrite a d).respond (Instr.memWrite k a d).request

/-- MEM_NONE (R99): no access. -/
def execMemNone (k : Bool) (a : Addr) (d : Byte) (s : State) : Host.Outcome State Fault Refusal :=
  s.unlessFaulted fun s => s.respond (Instr.memNone k a d).request

/-- MEM_RW_CONFLICT (R100): FAULT <- MEM_RW_CONFLICT. -/
def execMemRwConflict (_k : Bool) (_a : Addr) (_d : Byte) (s : State) : Host.Outcome State Fault Refusal :=
  s.unlessFaulted fun s => s.raiseFault .memRwConflict

end Sys2Proof.Machine
end

