-- ==== Sys2Proof/Machine/Dispatch.lean ====
section
/-! DEFINITION. The dispatch of a service to the rule of its kind (R86). -/

namespace Sys2Proof.Machine

/-- Service one decoded descriptor: exactly the rule of its kind (R86). -/
def exec (i : Instr) (s : State) : Host.Outcome State Fault Refusal :=
  match i with
  | .idle r w k a d => Sys2Proof.Machine.execIdle r w k a d s
  | .busConflict r w k a d => Sys2Proof.Machine.execBusConflict r w k a d s
  | .memRead k a d => Sys2Proof.Machine.execMemRead k a d s
  | .memWrite k a d => Sys2Proof.Machine.execMemWrite k a d s
  | .memNone k a d => Sys2Proof.Machine.execMemNone k a d s
  | .memRwConflict k a d => Sys2Proof.Machine.execMemRwConflict k a d s
  | .intAck r w a d => Sys2Proof.Machine.execIntAck r w a d s
  | .ioRead a d => Sys2Proof.Machine.execIoRead a d s
  | .ioWrite a d => Sys2Proof.Machine.execIoWrite a d s
  | .ioNone a d => Sys2Proof.Machine.execIoNone a d s
  | .ioRwConflict a d => Sys2Proof.Machine.execIoRwConflict a d s

end Sys2Proof.Machine
end

