-- ==== Sys2Proof/Machine/HostEvents.lean ====
section
/-! DEFINITION. The host's events between two services (spec/44_host_events.md), and the CPU core's reset (R168). -/

namespace Sys2Proof.Machine

/-- H_RAISE (R136). -/
def State.hostRaise (s : State) : State := s.raiseInterrupt

/-- H_KEY(b) (R137): KBD <- b, PENDING <- true. -/
def State.hostKey (s : State) (b : Byte) : State := { s.raiseInterrupt with kbd := b }

/-- H_STOP (R138): the running flag becomes false. -/
def State.hostStop (s : State) : State := { s with running := false }

/-- Display refresh (R139): no block state is read or written. -/
def State.hostRefresh (s : State) : State := s

/-- Inter-tick delay (R140): the block has no clock. -/
def State.hostDelay (s : State) : State := s

/-- A reset of the CPU core leaves the block as it was (R168; DEDUCED, log entry 13). -/
def State.cpuReset (s : State) : State := s

/-- The effect of one host event. -/
def State.hostEvent (s : State) : HostEvent → State
  | .raise    => s.hostRaise
  | .key b    => s.hostKey b
  | .stop     => s.hostStop
  | .refresh  => s.hostRefresh
  | .delay    => s.hostDelay
  | .cpuReset => s.cpuReset

/-- One host event taken between two services (R135); the faulted state takes none (R94). -/
def takeHostEvent (e : HostEvent) (s : State) : Host.Outcome State Fault Refusal :=
  s.unlessFaulted fun s => s.hostEvent e

end Sys2Proof.Machine
end

