-- ==== Sys2Proof/Machine/Step.lean ====
section
/-! DEFINITION. One step: one tick's service or one host event (R5, R52, R135). -/

namespace Sys2Proof.Machine

/-- One step. A faulted state has none (R94). After H_STOP nothing more happens and the state stays as it was left
(R138; log entry 6). Otherwise the next input is taken: a descriptor is decoded and served (R85, R86), a host event
has its effect (R135). -/
def step (s : State) : Host.Outcome State Fault Refusal :=
  match s.fault, s.running with
  | some reason, _ => .fault (.faulted reason)
  | none, false    => .next s
  | none, true     =>
    match s.nextInput with
    | (.tick req, s') => exec (decodeRequest req) s'
    | (.host e, s')   => takeHostEvent e s'

/-- The state in which the CPU core presents, on the very next tick, the descriptor whose low `nbits` bits are those
of `w` (log entry 4). -/
def State.withFetchWord (s : State) (nbits w : Nat) : State :=
  { s with inputs := .tick (unpack (wordOfBits nbits w)) :: s.inputs }

end Sys2Proof.Machine
end

