-- ==== Sys2Proof/Safety.lean ====
section
/-! DEFINITION. What claims are stated in: the invariant every step keeps, how a run ends and what is observed of a
stopped run (R175), and the sequential memory that R52 compares the block with. -/

namespace Sys2Proof.Machine

/-- What holds of every state a construction can lead to. -/
structure State.Inv (s : State) : Prop where
  /-- Only an admitted configuration has a machine (R9). -/
  config_wf    : s.config.wellFormed = true
  /-- ROM has ROM_SIZE bytes (R29), in canonical form. -/
  rom_wf       : s.rom.wf
  rom_within   : s.rom.within s.config.rom.size
  /-- RAM has RAM_SIZE bytes (R30), in canonical form. -/
  ram_wf       : s.ram.wf
  ram_within   : s.ram.within s.config.ram.size
  /-- There are BANK_COUNT bank arrays of WIN_SIZE bytes (R31), in canonical form. -/
  banks_count  : s.banks.length = s.config.bankCount
  banks_wf     : ∀ m ∈ s.banks, Memory.wf m
  banks_within : ∀ m ∈ s.banks, Memory.within m s.config.win.size
  /-- `0 <= BANK < BANK_COUNT` (R24). -/
  bank_lt      : s.bank < s.config.bankCount
  /-- VECTOR holds the constant IRQ_VECTOR (R27). -/
  vector_eq    : s.vector = s.config.irqVector

/-- How a run stands (R175). An unbounded run is one that stays `going`. -/
inductive RunStatus where
  | going | stopped | faulted (reason : FaultReason)
  deriving DecidableEq, Repr

/-- The status of a state: FAULT set is never a successful end (R94, R175). -/
def State.status (s : State) : RunStatus :=
  match s.fault, s.running with
  | some reason, _ => .faulted reason
  | none, false    => .stopped
  | none, true     => .going

/-- The tuple observed of a stopped run (R175). -/
structure FinalObservation where
  ram     : Memory
  banks   : List Memory
  bank    : Nat
  pending : Bool
  kbd     : Byte
  trace   : List DeviceEvent
  rsp     : Option BusRequest
  deriving DecidableEq, Repr

/-- The final observation: only a stopped run has one (R175). -/
def State.finalObservation (s : State) : Option FinalObservation :=
  match s.status with
  | .stopped   => some ⟨s.ram, s.banks, s.bank, s.pending, s.kbd, s.trace, s.rsp⟩
  | .going     => none
  | .faulted _ => none

/-- The address and byte an instruction asks to store in memory space: MEM_WRITE's operands (R69). -/
def storeOf : Instr → Option (Addr × Byte)
  | .memWrite _ a v   => some (a, v)
  | .idle ..          => none
  | .busConflict ..   => none
  | .memRead ..       => none
  | .memNone ..       => none
  | .memRwConflict .. => none
  | .intAck ..        => none
  | .ioRead ..        => none
  | .ioWrite ..       => none
  | .ioNone ..        => none
  | .ioRwConflict ..  => none

/-- The physical cell, chosen with BANK as it stands, and the byte that the next step stores, if it is a MEM_WRITE to
RAM or to the window (R43, R52). -/
def State.nextStore (s : State) : Option (PhysCell × Byte) :=
  match s.status, s.nextInput.1 with
  | .going, .tick req =>
    match storeOf (decodeRequest req) with
    | none => none
    | some (a, v) =>
      match s.cellOf a with
      | some (.ram i)    => some (.ram i, v)
      | some (.bank b i) => some (.bank b i, v)
      | some (.rom _)    => none
      | none             => none
  | .going, .host _   => none
  | .stopped, _       => none
  | .faulted _, _     => none

/-- The byte of the most recent MEM_WRITE to cell `c` among the next `n` steps from `s`, or `v` if there is none:
what R52 says a read of that cell returns. -/
def mostRecentStore : Nat → State → PhysCell → Byte → Byte
  | 0, _, _, v => v
  | n + 1, s, c, v =>
    match step s with
    | .next t    => mostRecentStore n t c (match s.nextStore with
        | some (c', w) => if c' = c then w else v
        | none         => v)
    | .fault _   => v
    | .refused _ => v

end Sys2Proof.Machine
end

