-- ==== Sys2Proof/Certificates/Slice0/Obligations.lean ====
section
/-! DEFINITION. The statements for the provers. A statement that rests on a choice the spec marks as its own (a decision D<n>
of spec/92_eei_decisions.md, or a rule tagged 'derived') or on this model's log says so in its docstring. `∃ p` before
an answer leaves the interrupt-request bit open where the rule stated does not speak of it: EveryAnswerShowsThePendingLevel
fixes it for every kind. -/

open Sys2Proof Sys2Proof.Machine

/-! ### Decoding -/

/-- 'service computes kind(req) and performs exactly the rule for that kind' (R86). The model's step around `exec` takes
the input off the queue, or counts a free input when the queue is empty (log entry 4, the model's choice). -/
def Obligations.StepRunsTheDecodedDescriptor : Prop :=
  ∀ s : State, s.fault = none → s.running = true →
    (∀ req rest, s.inputs = .tick req :: rest →
      step s = exec (decodeRequest req) { s with inputs := rest }) ∧
    (∀ e rest, s.inputs = .host e :: rest → step s = takeHostEvent e { s with inputs := rest }) ∧
    (s.inputs = [] → step s =
      match Config.agentInput s.inputDraws with
      | .tick req => exec (decodeRequest req) { s with inputDraws := s.inputDraws + 1 }
      | .host e   => takeHostEvent e { s with inputDraws := s.inputDraws + 1 }) ∧
    (∀ w : PackedWord, step (s.withFetchWord 32 w.toNat) = exec (decode w) s)

/-- Words written out from R66's layout (the spec's decision D21) decode to the instructions they stand for. -/
def Obligations.WordsOfTheSpecDecode : Prop :=
  decode 0x1C001234 = .idle true true true 0x1234 0x00 ∧
  decode 0x1F000000 = .busConflict true true true 0x0000 0x00 ∧
  decode 0x15004010 = .memRead true 0x4010 0x00 ∧
  decode 0xC5000000 = .memRead false 0x0000 0x00 ∧
  decode 0x09AA8000 = .memWrite false 0x8000 0xAA ∧
  decode 0x11000042 = .memNone true 0x0042 0x00 ∧
  decode 0x0D004000 = .memRwConflict false 0x4000 0x00 ∧
  decode 0x1EFF0080 = .intAck true true 0x0080 0xFF ∧
  decode 0x06001234 = .ioRead 0x1234 0x00 ∧
  decode 0x0A030301 = .ioWrite 0x0301 0x03 ∧
  decode 0x02000001 = .ioNone 0x0001 0x00 ∧
  decode 0x0E000001 = .ioRwConflict 0x0001 0x00

/-- Decoding an encoded instruction gives it back, and encoding a decoded word gives the word back but for the bits the
block ignores, P and 31:30 (R66 and R73; the layout is the spec's decision D21). -/
def Obligations.DecodeAndEncodeAgree : Prop :=
  (∀ i : Instr, decode (encode i) = i) ∧ ∀ w : PackedWord, encode (decode w) = w &&& 0x1FFFFFFF#32

/-- 'a word w is of a kind exactly when w AND mask = match' (R68, which the spec derives from R67). -/
def Obligations.WordIsOfAKindExactlyWhenItsRowMatches : Prop :=
  ∀ (w : PackedWord) (k : CycleKind), (decode w).kind = k ↔ w &&& k.rowMask = k.rowMatch

/-! ### The arbiter's kinds and the reserved kinds -/

/-- R87: IDLE makes no access and drives only the interrupt-request output (the spec's resolution C6, decision D20). -/
def Obligations.IdleDrivesOnlyTheInterruptLine : Prop :=
  (∀ req : BusRequest, req.isMemoryCycle = false → req.isIoCycle = false →
    decodeRequest req = .idle req.isRead req.isWrite req.isInterruptAck req.address req.data) ∧
  ∀ (r w k : Bool) (a : Addr) (d : Byte) (s : State), s.fault = none →
    exec (.idle r w k a d) s =
      .next { s with rsp := some ⟨a, d, false, false, r, w, k, s.pending⟩ }

/-- R88, R100, R108: each reserved kind is selected by its control bits and sets FAULT to its own reason, and nothing else
(the spec's decisions D15, D16 and D30). -/
def Obligations.ReservedKindsSetOnlyFault : Prop :=
  (∀ req : BusRequest, req.isMemoryCycle = true → req.isIoCycle = true →
    decodeRequest req = .busConflict req.isRead req.isWrite req.isInterruptAck req.address req.data) ∧
  (∀ req : BusRequest, req.isMemoryCycle = true → req.isIoCycle = false → req.isRead = true → req.isWrite = true →
    decodeRequest req = .memRwConflict req.isInterruptAck req.address req.data) ∧
  (∀ req : BusRequest, req.isMemoryCycle = false → req.isIoCycle = true → req.isInterruptAck = false →
    req.isRead = true → req.isWrite = true → decodeRequest req = .ioRwConflict req.address req.data) ∧
  ∀ (r w k : Bool) (a : Addr) (d : Byte) (s : State), s.fault = none →
    exec (.busConflict r w k a d) s = .next { s with fault := some .busConflict } ∧
    exec (.memRwConflict k a d) s = .next { s with fault := some .memRwConflict } ∧
    exec (.ioRwConflict a d) s = .next { s with fault := some .ioRwConflict }

/-- R94: a faulted state takes no service and no host event, has no next step, and has no final observation (the spec's
decision D30; the model answers with the fault `faulted`, log entry 7). -/
def Obligations.FaultedStateHasNoNextStep : Prop :=
  ∀ (s : State) (r : FaultReason), s.fault = some r →
    (∀ i : Instr, exec i s = .fault (.faulted r)) ∧
    (∀ e : HostEvent, takeHostEvent e s = .fault (.faulted r)) ∧
    (∀ n : Nat, Host.Core.run Sys2Proof.core (n + 1) s = .fault (.faulted r)) ∧
    s.finalObservation = none

/-- R90, R155: every cycle kind and every host event is accepted in every state whose FAULT is none, and the step completes
(the absence of modes is the spec's decision D29; a stopped state's step is the model's, log entry 6). -/
def Obligations.EveryServiceCompletes : Prop :=
  ∀ s : State, s.fault = none →
    (∀ i : Instr, ∃ t, exec i s = .next t) ∧ (∀ e : HostEvent, ∃ t, takeHostEvent e s = .next t) ∧
    ∃ t, step s = .next t

/-! ### Address space and memory cycles -/

/-- R41: the region decoder's tests in the source's order; a region of size 0 contains no address; and for an admitted
configuration the order never changes the answer. -/
def Obligations.RegionDecodeFollowsTheMap : Prop :=
  ∀ (c : Config) (a : Addr),
    (c.region a =
      if c.rom.base.toNat ≤ a.toNat ∧ a.toNat < c.rom.base.toNat + c.rom.size then .rom
      else if c.ram.base.toNat ≤ a.toNat ∧ a.toNat < c.ram.base.toNat + c.ram.size then .ram
      else if c.win.base.toNat ≤ a.toNat ∧ a.toNat < c.win.base.toNat + c.win.size then .win
      else .unmapped) ∧
    (c.rom.size = 0 → c.region a ≠ .rom) ∧ (c.ram.size = 0 → c.region a ≠ .ram) ∧
    (c.win.size = 0 → c.region a ≠ .win) ∧
    (c.wellFormed = true →
      (c.region a = .rom ↔ c.rom.base.toNat ≤ a.toNat ∧ a.toNat < c.rom.base.toNat + c.rom.size) ∧
      (c.region a = .ram ↔ c.ram.base.toNat ≤ a.toNat ∧ a.toNat < c.ram.base.toNat + c.ram.size) ∧
      (c.region a = .win ↔ c.win.base.toNat ≤ a.toNat ∧ a.toNat < c.win.base.toNat + c.win.size))

/-- R97 with R42 and R101: MEM_READ, whatever its K bit, returns the byte its address is mapped to, 0x00 when unmapped, and
changes no other state. ROM and RAM are indexed by the offset from their base by the spec's decision D3, K is ignored by
D18, and the interrupt-request bit is R91's (D20). -/
def Obligations.MemReadReturnsTheMappedByte : Prop :=
  (∀ req : BusRequest, req.isMemoryCycle = true → req.isIoCycle = false → req.isRead = true → req.isWrite = false →
    decodeRequest req = .memRead req.isInterruptAck req.address req.data) ∧
  ∀ (k : Bool) (a : Addr) (d : Byte) (s : State), s.fault = none →
    ∃ v : Byte,
      exec (.memRead k a d) s = .next { s with rsp := some ⟨a, v, true, false, true, false, k, s.pending⟩ } ∧
      (s.config.region a = .rom → v = s.rom.read (a.toNat - s.config.rom.base.toNat)) ∧
      (s.config.region a = .ram → v = s.ram.read (a.toNat - s.config.ram.base.toNat)) ∧
      (s.config.region a = .win →
        v = s.readCell (.bank s.bank (a.toNat - s.config.win.base.toNat))) ∧
      (s.config.region a = .unmapped → v = 0x00)

/-- R98: MEM_WRITE stores its byte in RAM or in the active bank, is discarded at a ROM or unmapped address, returns the data
as it came, the next read of the cell sees it, and writing the byte a window cell already holds changes nothing. That K is
ignored (D18), that RAM is indexed by the offset from its base (D3) and that a discarded write adds no event and no fault (D25)
are the spec's decisions. -/
def Obligations.MemWriteStoresOrIsDiscarded : Prop :=
  (∀ req : BusRequest, req.isMemoryCycle = true → req.isIoCycle = false → req.isRead = false → req.isWrite = true →
    decodeRequest req = .memWrite req.isInterruptAck req.address req.data) ∧
  ∀ (k : Bool) (a : Addr) (v : Byte) (s : State), s.fault = none → ∃ p : Bool,
    (s.config.region a = .rom ∨ s.config.region a = .unmapped →
      exec (.memWrite k a v) s =
        .next { s with rsp := some ⟨a, v, true, false, false, true, k, p⟩ }) ∧
    (s.config.region a = .ram →
      exec (.memWrite k a v) s =
        .next { s with ram := s.ram.write (a.toNat - s.config.ram.base.toNat) v,
                       rsp := some ⟨a, v, true, false, false, true, k, p⟩ }) ∧
    (s.config.region a = .win →
      exec (.memWrite k a v) s =
        .next { s with banks := s.banks.set s.bank
                         ((s.bankArray s.bank).write (a.toNat - s.config.win.base.toNat) v),
                       rsp := some ⟨a, v, true, false, false, true, k, p⟩ }) ∧
    (s.Inv → ∀ t, exec (.memWrite k a v) s = .next t →
      s.config.region a = .ram ∨ s.config.region a = .win → t.memRead a = v) ∧
    (s.Inv → s.config.region a = .win → s.memRead a = v →
      exec (.memWrite k a v) s = .next { s with rsp := some ⟨a, v, true, false, false, true, k, p⟩ })

/-- The frame of MEM_WRITE by reads of single bytes (R43, R47, which the spec derives): only the cell the address reaches
changes, so every other address reads as before, and no other state but the answer changes. -/
def Obligations.MemWriteChangesOnlyItsCell : Prop :=
  ∀ (k : Bool) (a : Addr) (v : Byte) (s : State), s.Inv → s.fault = none →
    ∃ t, exec (.memWrite k a v) s = .next t ∧
      t = { s with ram := t.ram, banks := t.banks, rsp := t.rsp } ∧
      (∀ c, s.cellOf a ≠ some c → t.readCell c = s.readCell c) ∧ (∀ b, b ≠ a → t.memRead b = s.memRead b) ∧
      (∀ i, s.cellOf a = some (.rom i) → t.readCell (.rom i) = s.readCell (.rom i)) ∧
      (∀ i, s.cellOf a = some (.ram i) → t.readCell (.ram i) = v) ∧
      (∀ b i, s.cellOf a = some (.bank b i) → t.readCell (.bank b i) = v)

/-- R99 and R107: a memory or I/O cycle with neither read nor write makes no access (the spec's decision D17; the
interrupt-request bit is R91's, D20). -/
def Obligations.CyclesWithNeitherReadNorWriteAccessNothing : Prop :=
  (∀ req : BusRequest, req.isMemoryCycle = true → req.isIoCycle = false → req.isRead = false → req.isWrite = false →
    decodeRequest req = .memNone req.isInterruptAck req.address req.data) ∧
  (∀ req : BusRequest, req.isMemoryCycle = false → req.isIoCycle = true → req.isInterruptAck = false →
    req.isRead = false → req.isWrite = false → decodeRequest req = .ioNone req.address req.data) ∧
  ∀ (k : Bool) (a : Addr) (d : Byte) (s : State), s.fault = none →
    exec (.memNone k a d) s =
      .next { s with rsp := some ⟨a, d, true, false, false, false, k, s.pending⟩ } ∧
    exec (.ioNone a d) s =
      .next { s with rsp := some ⟨a, d, false, true, false, false, false, s.pending⟩ }

/-- R103 with R55 (both derived by the spec): a write is seen by the very next read or opcode fetch of a RAM or window
address, a ROM byte stays, and an unmapped address reads 0x00. -/
def Obligations.ReadAfterWriteOfTheSameAddress : Prop :=
  ∀ (k k' : Bool) (a : Addr) (v d : Byte) (s : State), s.Inv → s.fault = none →
    ∃ t u q, exec (.memWrite k a v) s = .next t ∧ exec (.memRead k' a d) t = .next u ∧ u.rsp = some q ∧
      (s.config.region a = .ram → q.data = v) ∧ (s.config.region a = .win → q.data = v) ∧
      (s.config.region a = .rom → q.data = s.memRead a) ∧ (s.config.region a = .unmapped → q.data = 0x00)

/-- R102 (derived by the spec): a memory cycle of any kind reads and changes no PENDING, KBD or TRACE and runs no device
handler, and it does not change BANK, which a window cycle reads (R42). The answer's interrupt-request bit is R91's. -/
def Obligations.MemoryCyclesTouchNoIoState : Prop :=
  ∀ (i : Instr) (s t : State), i.request.isMemoryCycle = true → exec i s = .next t →
    t.pending = s.pending ∧ t.kbd = s.kbd ∧ t.trace = s.trace ∧ t.bank = s.bank ∧ t.lcdDraws = s.lcdDraws ∧
    t.vector = s.vector ∧ t.running = s.running ∧
    ∀ (p : Bool) (b : Byte) (l : List DeviceEvent), ∃ t',
      exec i { s with pending := p, kbd := b, trace := l } = .next t' ∧ t'.ram = t.ram ∧ t'.banks = t.banks ∧
      t'.fault = t.fault ∧ (t.fault = none → t'.rsp.map (·.data) = t.rsp.map (·.data))

/-- R29: the ROM array is what construction loaded, all of it below ROM_SIZE; no step of any run changes it, and a write to a
ROM address is discarded. -/
def Obligations.RomIsNeverMutatedAfterLoad : Prop :=
  (∀ (c : Config) (bytes : List Byte) (kbd : Byte) (t : State),
    State.construct c (some bytes) kbd = .ok t → t.rom = loadImage c.rom.size bytes ∧ t.rom.within c.rom.size) ∧
  (∀ (n : Nat) (s t : State), Host.Core.run Sys2Proof.core n s = .next t → t.rom = s.rom) ∧
  ∀ (k : Bool) (a : Addr) (v : Byte) (s : State), s.fault = none → s.config.region a = .rom →
    ∃ p : Bool, exec (.memWrite k a v) s =
      .next { s with rsp := some ⟨a, v, true, false, false, true, k, p⟩ }

/-- R50 over five ticks (derived by the spec): write v in the window, select another bank, read, select the first bank
again, read. The first read returns the other bank's own byte, the second returns v. -/
def Obligations.BankIsolationAndPersistence : Prop :=
  ∀ (s : State) (k₁ k₂ k₃ : Bool) (a p : Addr) (v v₁ v₂ d₁ d₂ : Byte) (rest : List Input),
    s.Inv → s.fault = none → s.running = true → s.config.region a = .win →
    s.config.device (s.config.devId p) = some .bankSel →
    s.config.legalize v₁ = s.bank → s.config.legalize v₂ ≠ s.bank →
    s.inputs = .tick (Instr.memWrite k₁ a v).request :: .tick (Instr.ioWrite p v₂).request ::
      .tick (Instr.memRead k₂ a d₁).request :: .tick (Instr.ioWrite p v₁).request ::
      .tick (Instr.memRead k₃ a d₂).request :: rest →
    (∃ t q, Host.Core.run Sys2Proof.core 3 s = .next t ∧ t.rsp = some q ∧ t.bank = s.config.legalize v₂ ∧
      q.data = s.readCell (.bank (s.config.legalize v₂) (a.toNat - s.config.win.base.toNat))) ∧
    ∃ t q, Host.Core.run Sys2Proof.core 5 s = .next t ∧ t.rsp = some q ∧ t.bank = s.bank ∧ t.inputs = rest ∧ q.data = v

/-- R52 (its conclusion, which the spec infers from the order of ticks): after any run, every physical cell holds the byte
of the most recent MEM_WRITE to it, chosen with BANK as it stood at that write, or what it held before the run. -/
def Obligations.EveryCellHoldsItsMostRecentWrite : Prop :=
  ∀ (n : Nat) (s t : State), s.Inv → Host.Core.run Sys2Proof.core n s = .next t →
    ∀ c : PhysCell, t.readCell c = mostRecentStore n s c (s.readCell c)

/-! ### Bank register, I/O cycles and devices -/

/-- R25: legalize brings every byte into range, leaves a value in range as it is, and is the remainder under MASK and the
nearest index under CLAMP (the policies' details are the spec's decisions D4 and D5). -/
def Obligations.LegalizeIsInRangeAndKeepsLegalValues : Prop :=
  ∀ (c : Config) (v : Byte), c.wellFormed = true →
    c.legalize v < c.bankCount ∧ (v.toNat < c.bankCount → c.legalize v = v.toNat) ∧
    (c.bankCount = 1 → c.legalize v = 0) ∧
    (c.bankPolicy = .mask → c.legalize v = v.toNat % c.bankCount) ∧
    (c.bankPolicy = .clamp → c.bankCount ≤ v.toNat → c.legalize v + 1 = c.bankCount)

/-- R109: a write to the bank-select device sets BANK to legalize(v), with no trace event; the corner values of the rule. -/
def Obligations.BankSelectWriteSetsBank : Prop :=
  (∀ (a : Addr) (v : Byte) (s : State), s.fault = none → s.config.device (s.config.devId a) = some .bankSel →
    ∃ p : Bool, exec (.ioWrite a v) s =
      .next { s with bank := s.config.legalize v,
                     rsp := some ⟨a, v, false, true, false, true, false, p⟩ }) ∧
  ∀ (c : Config) (v : Byte),
    (1 ≤ c.bankCount → c.legalize v < c.bankCount) ∧
    (c.bankCount = 4 → c.bankPolicy = .mask →
      c.legalize 4 = 0 ∧ c.legalize 5 = 1 ∧ c.legalize 0xFF = 3) ∧
    (c.bankCount = 4 → c.bankPolicy = .clamp →
      c.legalize 4 = 3 ∧ c.legalize 5 = 3 ∧ c.legalize 0xFF = 3) ∧
    (c.bankCount = 1 → c.legalize v = 0)

/-- R110: a read of the bank-select device returns 0x00 and changes no state, so BANK cannot be read back. -/
def Obligations.BankSelectReadReturnsTheSentinel : Prop :=
  ∀ (a : Addr) (d : Byte) (s : State), s.fault = none → s.config.device (s.config.devId a) = some .bankSel →
    ∃ p : Bool, exec (.ioRead a d) s =
      .next { s with rsp := some ⟨a, 0x00, false, true, true, false, false, p⟩ }

/-- R111: a write to the terminal appends exactly TermOut(v), once, and changes no other state, but for BANK at an address that
has R117's bank side effect: the bank selected there is left open here and fixed by IoWriteServesItsDeviceAlone. -/
def Obligations.TerminalWriteEmitsTheByte : Prop :=
  ∀ (a : Addr) (v : Byte) (s : State), s.fault = none → s.config.device (s.config.devId a) = some .terminal →
    ∃ (p : Bool) (n : Nat), (s.config.hiBank a = false → n = s.bank) ∧
      exec (.ioWrite a v) s =
        .next { s with bank := n, trace := s.trace ++ [.termOut v],
                       rsp := some ⟨a, v, false, true, false, true, false, p⟩ }

/-- R115 and R116: an unregistered identifier reads 0x00 and ignores writes, without a fault, an event or any other change, but
for BANK on a write to an address that has R117's bank side effect: the bank selected there is left open here and fixed by
IoWriteServesItsDeviceAlone. -/
def Obligations.UnregisteredIdentifiersReadZeroAndIgnoreWrites : Prop :=
  ∀ (a : Addr) (v : Byte) (s : State), s.fault = none → s.config.device (s.config.devId a) = none →
    ∃ (p : Bool) (n : Nat), (s.config.hiBank a = false → n = s.bank) ∧
      exec (.ioRead a v) s = .next { s with rsp := some ⟨a, 0x00, false, true, true, false, false, p⟩ } ∧
      exec (.ioWrite a v) s = .next { s with bank := n, rsp := some ⟨a, v, false, true, false, true, false, p⟩ }

/-- R105 with R112, R114, R110 and R115: the whole result of IO_READ for each device. KBD_READ_CLEARS is the spec's parameter
of D13; the LCD's byte is a draw (D14), any byte; the interrupt-request bit is R91's (D20). -/
def Obligations.IoReadServesItsDeviceAlone : Prop :=
  (∀ req : BusRequest, req.isMemoryCycle = false → req.isIoCycle = true → req.isInterruptAck = false →
    req.isRead = true → req.isWrite = false → decodeRequest req = .ioRead req.address req.data) ∧
  ∀ (a : Addr) (d : Byte) (s : State), s.fault = none →
    (s.config.device (s.config.devId a) = some .terminal →
      exec (.ioRead a d) s =
        .next { s with kbd := if s.config.kbdReadClears then 0x00 else s.kbd,
                       rsp := some ⟨a, s.kbd, false, true, true, false, false, s.pending⟩ }) ∧
    (s.config.device (s.config.devId a) = some .bankSel ∨ s.config.device (s.config.devId a) = none →
      exec (.ioRead a d) s =
        .next { s with rsp := some ⟨a, 0x00, false, true, true, false, false, s.pending⟩ }) ∧
    (s.config.device (s.config.devId a) = some .lcd → ∃ b : Byte,
      exec (.ioRead a d) s =
        .next { s with trace := s.trace ++
                         [.lcdRead (if (s.config.devId a).testBit s.config.lcdSubBit then .data else .command) b],
                       lcdDraws := s.lcdDraws + 1,
                       rsp := some ⟨a, b, false, true, true, false, false, s.pending⟩ })

/-- R106 with R117, R109, R111, R113 and R116: the whole result of IO_WRITE for each device, with the high-bit bank side
effect under LOW7_HIBANK only. The sub-identifier's polarity (D7), the side effect's bit, cycle and value (D8) and the
interrupt-request bit (D20) are the spec's decisions. -/
def Obligations.IoWriteServesItsDeviceAlone : Prop :=
  (∀ req : BusRequest, req.isMemoryCycle = false → req.isIoCycle = true → req.isInterruptAck = false →
    req.isRead = false → req.isWrite = true → decodeRequest req = .ioWrite req.address req.data) ∧
  ∀ (a : Addr) (v : Byte) (s : State), s.fault = none →
    ∃ b : Nat,
      (b = if s.config.devIdPolicy = .low7HiBank ∧ a.getLsbD s.config.hiBankBit = true
           then s.config.legalize v else s.bank) ∧
      (s.config.device (s.config.devId a) = some .terminal →
        exec (.ioWrite a v) s =
          .next { s with bank := b, trace := s.trace ++ [.termOut v],
                         rsp := some ⟨a, v, false, true, false, true, false, s.pending⟩ }) ∧
      (s.config.device (s.config.devId a) = some .bankSel →
        exec (.ioWrite a v) s =
          .next { s with bank := s.config.legalize v,
                         rsp := some ⟨a, v, false, true, false, true, false, s.pending⟩ }) ∧
      (s.config.device (s.config.devId a) = some .lcd →
        exec (.ioWrite a v) s =
          .next { s with bank := b,
                         trace := s.trace ++ [if (s.config.devId a).testBit s.config.lcdSubBit
                                              then .lcdData v else .lcdCmd v],
                         rsp := some ⟨a, v, false, true, false, true, false, s.pending⟩ }) ∧
      (s.config.device (s.config.devId a) = none →
        exec (.ioWrite a v) s =
          .next { s with bank := b, rsp := some ⟨a, v, false, true, false, true, false, s.pending⟩ })

/-- R76 (derived by the spec): an I/O address selects its device through the identifier bits alone. Two addresses that agree
there (and, for a write, in the high-bit side effect) are served alike but for the address returned. For an LCD read the two
executions compared draw equal bytes by the model's choice, log entry 5. -/
def Obligations.PortsAliasOnTheIdentifierBits : Prop :=
  ∀ (s : State) (a b : Addr) (d : Byte), s.fault = none →
    (∀ j, j < s.config.devIdPolicy.width → a.getLsbD j = b.getLsbD j) →
    (∃ (t : State) (q : BusRequest), exec (.ioRead a d) s = .next { t with rsp := some { q with address := a } } ∧
      exec (.ioRead b d) s = .next { t with rsp := some { q with address := b } }) ∧
    (s.config.hiBank a = s.config.hiBank b →
      ∃ (t : State) (q : BusRequest), exec (.ioWrite a d) s = .next { t with rsp := some { q with address := a } } ∧
        exec (.ioWrite b d) s = .next { t with rsp := some { q with address := b } })

/-- R24: the bank register changes only through an IO_WRITE that selects the bank-select device or, under LOW7_HIBANK (the
spec's decision D8), has the high bit set, and then to legalize of the byte written. -/
def Obligations.BankChangesOnlyThroughItsDocumentedWrite : Prop :=
  ∀ s t : State, step s = .next t → t.bank ≠ s.bank →
    ∃ req a v, s.nextInput.1 = .tick req ∧ decodeRequest req = .ioWrite a v ∧ t.bank = s.config.legalize v ∧
      (s.config.device (s.config.devId a) = some .bankSel ∨
        (s.config.devIdPolicy = .low7HiBank ∧ a.getLsbD s.config.hiBankBit = true))

/-- R32 with R118 (derived by the spec; the trace is its decision D26): a step leaves TRACE or appends exactly one event,
which is the event of the device that the I/O cycle selects. -/
def Obligations.TraceGainsAtMostTheSelectedDevicesEvent : Prop :=
  ∀ s t : State, step s = .next t →
    t.trace = s.trace ∨
    ∃ req a v e, s.nextInput.1 = .tick req ∧ t.trace = s.trace ++ [e] ∧
      ((decodeRequest req = .ioWrite a v ∧ s.config.device (s.config.devId a) = some .terminal ∧ e = .termOut v) ∨
       (decodeRequest req = .ioWrite a v ∧ s.config.device (s.config.devId a) = some .lcd ∧
         s.config.lcdSide (s.config.devId a) = .command ∧ e = .lcdCmd v) ∨
       (decodeRequest req = .ioWrite a v ∧ s.config.device (s.config.devId a) = some .lcd ∧
         s.config.lcdSide (s.config.devId a) = .data ∧ e = .lcdData v) ∨
       (decodeRequest req = .ioRead a v ∧ s.config.device (s.config.devId a) = some .lcd ∧
         ∃ q, t.rsp = some q ∧ e = .lcdRead (s.config.lcdSide (s.config.devId a)) q.data))

/-! ### Interrupts -/

/-- R130: the acknowledge returns VECTOR and clears PENDING, whatever R, W, the address and the data are; no device handler
runs, and BANK and KBD stay. That R and W are ignored and that PENDING need not be set is the spec's decision D19; the
interrupt-request bit is R91's (D20). -/
def Obligations.IntAckReturnsTheVectorAndClearsPending : Prop :=
  (∀ req : BusRequest, req.isMemoryCycle = false → req.isIoCycle = true → req.isInterruptAck = true →
    decodeRequest req = .intAck req.isRead req.isWrite req.address req.data) ∧
  ∀ (r w : Bool) (a : Addr) (d : Byte) (s : State), s.fault = none →
    exec (.intAck r w a d) s =
      .next { s with pending := false, rsp := some ⟨a, s.vector, false, true, r, w, true, false⟩ }

/-- R132: no step but an acknowledge clears PENDING. -/
def Obligations.OnlyTheAcknowledgeClearsPending : Prop :=
  ∀ s t : State, step s = .next t → s.pending = true → t.pending = false →
    ∃ req r w a d, s.nextInput.1 = .tick req ∧ decodeRequest req = .intAck r w a d

/-- R136: H_RAISE sets PENDING alone (the spec's decision D23), idempotently, and changes nothing else; the next service that is
no acknowledge shows the level (R91, decision D20). -/
def Obligations.RaiseSetsPendingAndNothingElse : Prop :=
  ∀ s : State, s.fault = none →
    takeHostEvent .raise s = .next { s with pending := true } ∧
    takeHostEvent .raise { s with pending := true } = .next { s with pending := true } ∧
    ∀ (i : Instr) (t : State), exec i { s with pending := true } = .next t → t.fault = none → i.kind ≠ .intAck →
      ∃ q, t.rsp = some q ∧ q.interruptPending = true

/-- R91 and R149 (the spec's decision D20): every service that leaves FAULT at none answers with the level that PENDING has
after the kind's rule, whatever level came in. For an LCD read the two executions compared draw equal bytes by the model's
choice, log entry 5. -/
def Obligations.EveryAnswerShowsThePendingLevel : Prop :=
  (∀ (i : Instr) (s t : State), exec i s = .next t → t.fault = none →
    ∃ q, t.rsp = some q ∧ q.interruptPending = t.pending) ∧
  ∀ (req : BusRequest) (p : Bool) (s : State),
    exec (decodeRequest { req with interruptPending := p }) s = exec (decodeRequest req) s

/-- R92: the returned descriptor is the request with at most the data, and only on MEM_READ, IO_READ and INT_ACK, and the
interrupt-request bit changed. -/
def Obligations.AnswersKeepTheAddressAndControlBits : Prop :=
  ∀ (req : BusRequest) (s t : State), exec (decodeRequest req) s = .next t → t.fault = none →
    ∃ q, t.rsp = some q ∧
      q = { req with data := q.data, interruptPending := q.interruptPending } ∧
      ((decodeRequest req).kind ≠ .memRead → (decodeRequest req).kind ≠ .ioRead →
        (decodeRequest req).kind ≠ .intAck → q.data = req.data)

/-- R134 with R131 (derived by the spec): two raises and two acknowledges. The raises merge, the first acknowledge returns
VECTOR and clears PENDING, the second returns VECTOR with PENDING already false. -/
def Obligations.RaisesMergeAndOneAcknowledgeClearsThem : Prop :=
  ∀ (s : State) (r w r' w' : Bool) (a a' : Addr) (d d' : Byte) (rest : List Input),
    s.fault = none → s.running = true →
    s.inputs = .host .raise :: .host .raise :: .tick (Instr.intAck r w a d).request ::
      .tick (Instr.intAck r' w' a' d').request :: rest →
    (∃ t, Host.Core.run Sys2Proof.core 1 s = .next t ∧ t.pending = true) ∧
    (∃ t, Host.Core.run Sys2Proof.core 2 s = .next t ∧ t.pending = true) ∧
    (∃ t, Host.Core.run Sys2Proof.core 3 s = .next t ∧ t.pending = false ∧
      t.rsp = some ⟨a, s.vector, false, true, r, w, true, false⟩) ∧
    ∃ t, Host.Core.run Sys2Proof.core 4 s = .next t ∧ t.pending = false ∧
      t.rsp = some ⟨a', s.vector, false, true, r', w', true, false⟩

/-! ### Host events, reset, runs -/

/-- R137 (the spec's decision D23), R139, R140, R168 (D24) and R54 (derived): a key press writes KBD and PENDING, a refresh,
a delay and a reset of the CPU core change nothing, and no host event changes more than PENDING, KBD and the running flag. -/
def Obligations.HostEventsTouchOnlyPendingAndKbd : Prop :=
  ∀ s : State, s.fault = none →
    (∀ b : Byte, takeHostEvent (.key b) s = .next { s with kbd := b, pending := true }) ∧
    takeHostEvent .refresh s = .next s ∧ takeHostEvent .delay s = .next s ∧ takeHostEvent .cpuReset s = .next s ∧
    ∀ e : HostEvent, ∃ t, takeHostEvent e s = .next t ∧
      t = { s with pending := t.pending, kbd := t.kbd, running := t.running } ∧
      (∀ c, t.readCell c = s.readCell c) ∧ (s.pending = true → t.pending = true)

/-- R138 and R175 (D27): H_STOP ends the run. However many steps follow, the state stays as the last service left it, and
the final observation is read from it. That a step of the stopped state answers that state is the model's choice, log
entry 6. -/
def Obligations.StopEndsTheRunAndKeepsTheState : Prop :=
  ∀ (s : State) (rest : List Input), s.fault = none → s.running = true → s.inputs = .host .stop :: rest →
    s.status = .going ∧ s.finalObservation = none ∧
    ∀ n : Nat, ∃ t, Host.Core.run Sys2Proof.core (n + 1) s = .next t ∧
      t = { s with running := false, inputs := rest } ∧ t.status = .stopped ∧
      t.finalObservation = some ⟨s.ram, s.banks, s.bank, s.pending, s.kbd, s.trace, s.rsp⟩

/-- R165, R167, R9 and R147: construction from a configuration, an image and any drawn keyboard byte either gives the state
the rules list, or no state, for a failed check of R9 or an unreadable image. BANK 0 (D10), PENDING false (D11), the
keyboard draw (D12) and the checks of R9 are the spec's decisions; `rsp` none and `running` true are log entries 8 and 9. -/
def Obligations.ConstructionGivesTheResetValues : Prop :=
  ∀ (c : Config) (kbd : Byte),
    (∀ image, c.wellFormed = false →
      ∃ k, c.passes k = false ∧ State.construct c image kbd = .error (.illFormed k)) ∧
    (c.wellFormed = true → State.construct c none kbd = .error .romUnreadable) ∧
    (c.wellFormed = true → ∀ bytes : List Byte, ∃ t, State.construct c (some bytes) kbd = .ok t ∧ t.Inv ∧
      t.config = c ∧ (∀ i, t.ram.read i = 0x00) ∧ t.banks.length = c.bankCount ∧
      (∀ b i, t.readCell (.bank b i) = 0x00) ∧ t.bank = 0 ∧ t.pending = false ∧ t.vector = c.irqVector ∧
      t.kbd = kbd ∧ t.trace = [] ∧ t.fault = none ∧ t.rsp = none ∧ t.running = true ∧
      ∀ s : State, s.reconstruct c (some bytes) kbd = .ok t)

/-- R166: image byte i is at ROM offset i, so at CPU address ROM_BASE + i; a short image is padded with 0x00, a long one
truncated at ROM_SIZE, an empty one gives an all-zero ROM. That ROM is indexed by the offset from its base, so that byte i is
read at ROM_BASE + i, is the spec's decision D3. -/
def Obligations.RomImageIsPaddedOrTruncated : Prop :=
  ∀ (c : Config) (image : List Byte) (kbd : Byte) (t : State), State.construct c (some image) kbd = .ok t →
    (∀ i, i < c.rom.size → i < image.length → t.rom.read i = image.getD i 0x00) ∧
    (∀ i, image.length ≤ i → t.rom.read i = 0x00) ∧
    (∀ i, c.rom.size ≤ i → t.rom.read i = 0x00) ∧
    (∀ a : Addr, c.region a = .rom → t.memRead a = image.getD (a.toNat - c.rom.base.toNat) 0x00) ∧
    (image = [] → ∀ i, t.rom.read i = 0x00)

/-- R9's reference configurations are admitted and the ill-formed ones of spec/95_test_vectors.md §2.7 are refused, each by
its check (R9's checks are the spec's decisions D2, D4, D5, D7 and D8). -/
def Obligations.ConfigurationsAreAdmittedOrRefusedByCheck : Prop :=
  (Config.multiBank.wellFormed ∧ Config.flat.wellFormed ∧ Config.singleBank.wellFormed ∧ Config.holes.wellFormed) ∧
  ({ Config.multiBank with rom := ⟨0x0000, 0x8000⟩ } : Config).failedCheck = some .disjoint ∧
  ({ Config.multiBank with win := ⟨0xC000, 0x8000⟩ } : Config).failedCheck = some .winFits ∧
  ({ Config.multiBank with bankCount := 0 } : Config).failedCheck = some .bankCount ∧
  ({ Config.multiBank with bankCount := 257 } : Config).failedCheck = some .bankCount ∧
  ({ Config.multiBank with bankCount := 3 } : Config).failedCheck = some .maskPow2 ∧
  ({ Config.multiBank with deviceMap := [(8, .terminal)] } : Config).failedCheck = some .devMapRange ∧
  ({ Config.multiBank with deviceMap := [(2, .lcd)] } : Config).failedCheck = some .lcdPair

/-- The invariant of spec/10_state.md (R24, R27, R29 to R31) and of the memories' canonical form, the model's own, holds
after reset (the reset configuration, image and keyboard byte are the model's choices, log entries 1 to 3). -/
def Obligations.ResetMeetsTheInvariant : Prop := State.reset.Inv

/-- Every step keeps the invariant: BANK stays in range, VECTOR stays IRQ_VECTOR, the configuration stays admitted, and every
array keeps its number of bytes and its canonical form (the canonical form is the model's own). -/
def Obligations.EveryStepKeepsTheInvariant : Prop :=
  ∀ s t : State, s.Inv → step s = .next t → t.Inv

/-- R27, R119, R74: over any run the configuration, the device table in it and VECTOR stay as construction made them (that
VECTOR is a parameter is the spec's decision D9, the device table D7). -/
def Obligations.ConstructionConstantsNeverChange : Prop :=
  ∀ (n : Nat) (s t : State), Host.Core.run Sys2Proof.core n s = .next t →
    t.config = s.config ∧ t.vector = s.vector ∧
    (∀ a, t.config.device (t.config.devId a) = s.config.device (s.config.devId a))

/-! ### What cannot be seen -/

/-- R34 (an observation of the spec about its own rules): KBD is seen only through a terminal read, and PENDING only through
the interrupt-request bit: no service's memory, bank, trace, fault or answer depends on them otherwise. For an LCD read the two
executions compared draw equal bytes by the model's choice, log entry 5. -/
def Obligations.KbdAndPendingShowOnlyWhereTheSpecSays : Prop :=
  ∀ (i : Instr) (s : State), s.fault = none →
    (∀ b : Byte, (∀ a d, i = .ioRead a d → s.config.device (s.config.devId a) ≠ some .terminal) →
      ∃ t, exec i s = .next t ∧ exec i { s with kbd := b } = .next { t with kbd := b }) ∧
    ∀ p : Bool, ∃ t t', exec i s = .next t ∧ exec i { s with pending := p } = .next t' ∧
      t' = { t with pending := t'.pending, rsp := t'.rsp } ∧ (t.fault ≠ none → t'.rsp = t.rsp) ∧
      (t.fault = none → ∃ q q', t.rsp = some q ∧ t'.rsp = some q' ∧
        q' = { q with interruptPending := q'.interruptPending })

/-- R96 (derived by the spec): an LCD read's draw is the only value the block does not determine. A service that is no LCD
read gives the same result whatever the model's counters, the inputs to come and the host's running flag are. -/
def Obligations.OnlyAnLcdReadDependsOnTheOutside : Prop :=
  ∀ (i : Instr) (s : State) (l : List Input) (m n : Nat) (r : Bool), s.fault = none →
    (∀ a d, i = .ioRead a d → s.config.device (s.config.devId a) ≠ some .lcd) →
    ∃ t, exec i s = .next t ∧
      exec i { s with inputs := l, inputDraws := m, lcdDraws := n, running := r } =
        .next { t with inputs := l, inputDraws := m, lcdDraws := n, running := r }

/-! ### Boot -/

/-- R170's facts of the block (derived by the spec): a constructed block needs no set-up. Its very first step serves any word; a
memory read gives the image byte in ROM, by ROM's offset (the spec's decision D3), and 0x00 elsewhere; bank 0 is selected (D10),
so a window write goes there and to no other bank; and a terminal read gives the byte drawn for KBD, which may be any (D12). -/
def Obligations.ConstructedBlockBootsWithNoSetUp : Prop :=
  ∀ (c : Config) (image : List Byte) (kbd : Byte) (s : State), State.construct c (some image) kbd = .ok s →
    (∀ w : PackedWord, ∃ t, step (s.withFetchWord 32 w.toNat) = .next t) ∧
    (∀ (k : Bool) (a : Addr) (d : Byte), ∃ t q, exec (.memRead k a d) s = .next t ∧ t.rsp = some q ∧
      (c.region a = .rom → q.data = image.getD (a.toNat - c.rom.base.toNat) 0x00) ∧
      (c.region a ≠ .rom → q.data = 0x00)) ∧
    (∀ (k : Bool) (a : Addr) (v : Byte), c.region a = .win → ∃ t, exec (.memWrite k a v) s = .next t ∧
      t.readCell (.bank 0 (a.toNat - c.win.base.toNat)) = v ∧ ∀ b i, b ≠ 0 → t.readCell (.bank b i) = 0x00) ∧
    (∀ (a : Addr) (d : Byte), c.device (c.devId a) = some .terminal →
      ∃ t q, exec (.ioRead a d) s = .next t ∧ t.rsp = some q ∧ q.data = kbd)
end

