-- ==== Sys2Proof/Laws/Decode.lean ====
section
/-! SUPPORT. The packed word and its record: each field of a packed record, and what packing keeps of a word. -/

namespace Sys2Proof

@[simp] theorem getLsbD_bitAt (pos : Nat) (b : Bool) (j : Nat) :
    (bitAt pos b).getLsbD j = (decide (j = pos ∧ j < 32) && b) := by
  unfold bitAt
  cases b
  · simp
  · by_cases h : j < 32 <;> by_cases h2 : j = pos <;> simp [h, h2]
    omega

/-- Every bit of a packed word (R66). -/
theorem getLsbD_pack (r : BusRequest) (j : Nat) :
    (pack r).getLsbD j =
      (r.address.getLsbD j || (decide (16 ≤ j) && r.data.getLsbD (j - 16)) || (decide (j = 24) && r.isMemoryCycle) ||
        (decide (j = 25) && r.isIoCycle) || (decide (j = 26) && r.isRead) || (decide (j = 27) && r.isWrite) ||
        (decide (j = 28) && r.isInterruptAck) || (decide (j = 29) && r.interruptPending)) := by
  by_cases h : j < 32
  · have h16 : decide (16 ≤ j) = !decide (j < 16) := by
      rw [← decide_not]
      exact decide_eq_decide.2 (by omega)
    simp only [pack, BitVec.getLsbD_or, BitVec.getLsbD_shiftLeft, BitVec.getLsbD_setWidth, getLsbD_bitAt, h, h16,
      show j - 16 < 32 by omega, decide_true, Bool.true_and, and_true]
  · have : r.address.getLsbD j = false := BitVec.getLsbD_of_ge _ _ (by omega)
    have : r.data.getLsbD (j - 16) = false := BitVec.getLsbD_of_ge _ _ (by omega)
    rw [BitVec.getLsbD_of_ge _ _ (by omega)]
    simp_all
    omega

/-- A packed record is read back whole. -/
theorem unpack_pack (r : BusRequest) : unpack (pack r) = r := by
  obtain ⟨a, d, m, i, rd, wr, k, p⟩ := r
  simp only [unpack, getLsbD_pack, BusRequest.mk.injEq]
  refine ⟨?_, ?_, ?_, ?_, ?_, ?_, ?_, ?_⟩
  · apply BitVec.eq_of_getLsbD_eq
    intro j hj
    have h2 : ∀ n, 16 ≤ n → j ≠ n := by omega
    have h1 : ¬ 16 ≤ j := by omega
    simp [getLsbD_pack, hj, h2, h1]
  · apply BitVec.eq_of_getLsbD_eq
    intro j hj
    have h2 : ∀ n, 24 ≤ n → 16 + j ≠ n := by omega
    simp [getLsbD_pack, hj, h2]
  all_goals simp

/-- The encoder writes the incoming interruptPending bit 0. -/
theorem request_interruptPending (i : Instr) : i.request.interruptPending = false := by cases i <;> rfl

/-- An incoming interruptPending bit does not change what is decoded (R73). -/
theorem decodeRequest_ignores_interruptPending (req : BusRequest) (p : Bool) :
    decodeRequest { req with interruptPending := p } = decodeRequest req := rfl

end Sys2Proof
end

