-- ==== Sys2Proof/Laws/Memory.lean ====
section
/-! SUPPORT. The laws of byte arrays: a read after a write, canonical form and size kept, loading, and that two
canonical arrays that read alike are equal. -/

namespace Sys2Proof.Machine

@[simp] theorem Memory.read_nil (i : Nat) : Memory.read [] i = Memory.unlisted := rfl

theorem Memory.read_eq_unlisted_of_forall_lt {m : Memory} {i : Nat} (h : ∀ c ∈ m, i < c.1) :
    Memory.read m i = Memory.unlisted := by
  induction m with
  | nil => rfl
  | cons c m ih =>
    have hc : i ≠ c.1 := (h c (by simp)).ne
    simpa [Memory.read, hc] using ih fun d hd => h d (by simp [hd])

theorem Memory.wf_tail {c : Host.Cell} {m : Memory} (h : Memory.wf (c :: m)) : Memory.wf m :=
  ⟨(List.pairwise_cons.1 h.1).2, fun d hd => h.2 d (by simp [hd])⟩

theorem Memory.wf_head_lt {c : Host.Cell} {m : Memory} (h : Memory.wf (c :: m)) : ∀ d ∈ m, c.1 < d.1 :=
  (List.pairwise_cons.1 h.1).1

/-- Every entry of a written array is the new one or an old one. -/
theorem Memory.mem_write {m : Memory} {i : Nat} {v : Byte} {c : Host.Cell} (h : c ∈ Memory.write m i v) :
    (c = (i, v) ∧ v ≠ Memory.unlisted) ∨ c ∈ m := by
  induction m with
  | nil => by_cases hv : v = Memory.unlisted <;> simp_all [Memory.write]
  | cons d m ih =>
    by_cases h1 : i < d.1 <;> by_cases h2 : i = d.1 <;> by_cases hv : v = Memory.unlisted <;>
      simp_all [Memory.write] <;> tauto

theorem Memory.write_wf {m : Memory} (h : Memory.wf m) (i : Nat) (v : Byte) : Memory.wf (Memory.write m i v) := by
  induction m with
  | nil => by_cases hv : v = Memory.unlisted <;> simp [Memory.write, Memory.wf, hv]
  | cons d m ih =>
    have hlt := Memory.wf_head_lt h
    have ht := Memory.wf_tail h
    have hd := h.2 d (by simp)
    unfold Memory.write
    by_cases h1 : i < d.1
    · by_cases hv : v = Memory.unlisted
      · simpa [h1, hv] using h
      · rw [if_pos h1, if_neg hv]
        refine ⟨List.pairwise_cons.2 ⟨fun c hc => ?_, h.1⟩, fun c hc => ?_⟩
        · rcases List.mem_cons.1 hc with rfl | hc
          · exact h1
          · exact h1.trans (hlt c hc)
        · rcases List.mem_cons.1 hc with rfl | hc
          · exact hv
          · exact h.2 c hc
    · by_cases h2 : i = d.1
      · by_cases hv : v = Memory.unlisted
        · rw [if_neg h1, if_pos h2, if_pos hv]
          exact ht
        · rw [if_neg h1, if_pos h2, if_neg hv]
          refine ⟨List.pairwise_cons.2 ⟨fun c hc => h2 ▸ hlt c hc, ht.1⟩, fun c hc => ?_⟩
          rcases List.mem_cons.1 hc with rfl | hc
          · exact hv
          · exact ht.2 c hc
      · rw [if_neg h1, if_neg h2]
        have hw := ih ht
        refine ⟨List.pairwise_cons.2 ⟨fun c hc => ?_, hw.1⟩, fun c hc => ?_⟩
        · rcases Memory.mem_write hc with ⟨rfl, -⟩ | hc
          · exact lt_of_le_of_ne (Nat.le_of_not_lt h1) (Ne.symm h2)
          · exact hlt c hc
        · rcases List.mem_cons.1 hc with rfl | hc
          · exact hd
          · exact hw.2 c hc

theorem Memory.write_within {m : Memory} {n : Nat} (h : Memory.within m n) {i : Nat} (hi : i < n) (v : Byte) :
    Memory.within (Memory.write m i v) n := fun c hc => by
  rcases Memory.mem_write hc with ⟨rfl, -⟩ | hc
  · exact hi
  · exact h c hc

/-- A read of the written index gives the written byte. -/
theorem Memory.read_write_same {m : Memory} (h : Memory.wf m) (i : Nat) (v : Byte) :
    Memory.read (Memory.write m i v) i = v := by
  induction m with
  | nil => by_cases hv : v = Memory.unlisted <;> simp [Memory.write, Memory.read, hv]
  | cons d m ih =>
    have hlt := Memory.wf_head_lt h
    unfold Memory.write
    by_cases h1 : i < d.1
    · by_cases hv : v = Memory.unlisted
      · rw [if_pos h1, if_pos hv, hv]
        refine Memory.read_eq_unlisted_of_forall_lt fun c hc => ?_
        rcases List.mem_cons.1 hc with rfl | hc
        · exact h1
        · exact h1.trans (hlt c hc)
      · simp [h1, hv, Memory.read]
    · by_cases h2 : i = d.1
      · by_cases hv : v = Memory.unlisted
        · rw [if_neg h1, if_pos h2, if_pos hv, hv]
          exact Memory.read_eq_unlisted_of_forall_lt fun c hc => h2 ▸ hlt c hc
        · simp [h2, hv, Memory.read]
      · simpa [h1, h2, Memory.read] using ih (Memory.wf_tail h)

/-- A write leaves every other index alone, in any array. -/
theorem Memory.read_write_other (m : Memory) {i j : Nat} (h : j ≠ i) (v : Byte) :
    Memory.read (Memory.write m i v) j = Memory.read m j := by
  induction m with
  | nil => by_cases hv : v = Memory.unlisted <;> simp [Memory.write, Memory.read, hv, h]
  | cons d m ih =>
    unfold Memory.write
    by_cases h1 : i < d.1
    · by_cases hv : v = Memory.unlisted <;> simp [h1, hv, Memory.read, h]
    · by_cases h2 : i = d.1
      · subst h2
        by_cases hv : v = Memory.unlisted <;> simp [hv, Memory.read, h]
      · by_cases h3 : j = d.1 <;> simp [h1, h2, h3, Memory.read, ih]

/-- Two canonical arrays that read alike at every index are equal. -/
theorem Memory.ext_read {m q : Memory} (hm : Memory.wf m) (hq : Memory.wf q)
    (h : ∀ i, Memory.read m i = Memory.read q i) : m = q := by
  induction m generalizing q with
  | nil =>
    cases q with
    | nil => rfl
    | cons d q => exact absurd (by simpa [Memory.read] using (h d.1).symm) (hq.2 d (by simp))
  | cons c m ih =>
    cases q with
    | nil => exact absurd (by simpa [Memory.read] using h c.1) (hm.2 c (by simp))
    | cons d q =>
      have hc := hm.2 c (by simp)
      have hd := hq.2 d (by simp)
      have hlc := Memory.wf_head_lt hm
      have hld := Memory.wf_head_lt hq
      have key : c.1 = d.1 := by
        rcases lt_trichotomy c.1 d.1 with hl | he | hl
        · have := h c.1
          rw [Memory.read_eq_unlisted_of_forall_lt (m := d :: q) fun x hx => by
            rcases List.mem_cons.1 hx with rfl | hx
            · exact hl
            · exact hl.trans (hld x hx)] at this
          exact absurd (by simpa [Memory.read] using this) hc
        · exact he
        · have := h d.1
          rw [Memory.read_eq_unlisted_of_forall_lt (m := c :: m) fun x hx => by
            rcases List.mem_cons.1 hx with rfl | hx
            · exact hl
            · exact hl.trans (hlc x hx)] at this
          exact absurd (by simpa [Memory.read] using this.symm) hd
      have val : c.2 = d.2 := by simpa [Memory.read, key] using h c.1
      have tail : m = q := ih (Memory.wf_tail hm) (Memory.wf_tail hq) fun i => by
        by_cases hi : i = c.1
        · rw [hi, Memory.read_eq_unlisted_of_forall_lt hlc, key, Memory.read_eq_unlisted_of_forall_lt hld]
        · have := h i
          simpa [Memory.read, hi, key ▸ hi] using this
      rw [Prod.ext key val, tail]

theorem Memory.mem_ofBytes {i : Nat} {bs : List Byte} {c : Host.Cell} (h : c ∈ Memory.ofBytes i bs) :
    i ≤ c.1 ∧ c.1 < i + bs.length ∧ c.2 ≠ Memory.unlisted := by
  induction bs generalizing i with
  | nil => simp [Memory.ofBytes] at h
  | cons b bs ih =>
    unfold Memory.ofBytes at h
    split at h
    · have := ih h
      simp only [List.length_cons]
      exact ⟨by omega, by omega, this.2.2⟩
    · rcases List.mem_cons.1 h with rfl | h
      · simpa using by assumption
      · have := ih h
        simp only [List.length_cons]
        exact ⟨by omega, by omega, this.2.2⟩

theorem Memory.ofBytes_wf (i : Nat) (bs : List Byte) : Memory.wf (Memory.ofBytes i bs) := by
  refine ⟨?_, fun c hc => (Memory.mem_ofBytes hc).2.2⟩
  induction bs generalizing i with
  | nil => exact List.Pairwise.nil
  | cons b bs ih =>
    unfold Memory.ofBytes
    split
    · exact ih (i + 1)
    · exact List.pairwise_cons.2 ⟨fun c hc => (Memory.mem_ofBytes hc).1, ih (i + 1)⟩

theorem Memory.ofBytes_within (i : Nat) (bs : List Byte) : Memory.within (Memory.ofBytes i bs) (i + bs.length) :=
  fun _ hc => (Memory.mem_ofBytes hc).2.1

theorem Memory.read_ofBytes (i j : Nat) (bs : List Byte) :
    Memory.read (Memory.ofBytes i bs) (i + j) = (bs[j]?).getD Memory.unlisted := by
  induction bs generalizing i j with
  | nil => simp [Memory.ofBytes]
  | cons b bs ih =>
    cases j with
    | zero =>
      unfold Memory.ofBytes
      split
      · rename_i hb
        have h0 : Memory.read (Memory.ofBytes (i + 1) bs) i = Memory.unlisted :=
          Memory.read_eq_unlisted_of_forall_lt fun c hc => (Memory.mem_ofBytes hc).1
        simpa [hb] using h0
      · simp [Memory.read]
    | succ j =>
      have := ih (i + 1) j
      rw [show i + 1 + j = i + (j + 1) by omega] at this
      unfold Memory.ofBytes
      split
      · simpa using this
      · simpa [Memory.read] using this

theorem loadImage_wf (n : Nat) (image : List Byte) : Memory.wf (loadImage n image) := Memory.ofBytes_wf 0 _

theorem loadImage_within (n : Nat) (image : List Byte) : Memory.within (loadImage n image) n := fun c hc => by
  have := Memory.ofBytes_within 0 (image.take n) c hc
  simp at this
  omega

theorem State.reset_memories_wf :
    State.reset.rom.wf ∧ State.reset.ram.wf ∧ ∀ m ∈ State.reset.banks, Memory.wf m := by decide

end Sys2Proof.Machine
end

