-- ==== Sys2Proof/Laws/State.lean ====
section
/-! SUPPORT. What every named update of the state does to every field, and that an update which changes no memory
field changes no read of memory. Each lemma is true by rfl. -/

namespace Sys2Proof.Machine

variable (s : State)

@[simp] theorem State.respond_config (q : BusRequest) : (s.respond q).config = s.config := rfl
@[simp] theorem State.respond_rom (q : BusRequest) : (s.respond q).rom = s.rom := rfl
@[simp] theorem State.respond_ram (q : BusRequest) : (s.respond q).ram = s.ram := rfl
@[simp] theorem State.respond_banks (q : BusRequest) : (s.respond q).banks = s.banks := rfl
@[simp] theorem State.respond_bank (q : BusRequest) : (s.respond q).bank = s.bank := rfl
@[simp] theorem State.respond_pending (q : BusRequest) : (s.respond q).pending = s.pending := rfl
@[simp] theorem State.respond_vector (q : BusRequest) : (s.respond q).vector = s.vector := rfl
@[simp] theorem State.respond_kbd (q : BusRequest) : (s.respond q).kbd = s.kbd := rfl
@[simp] theorem State.respond_trace (q : BusRequest) : (s.respond q).trace = s.trace := rfl
@[simp] theorem State.respond_fault (q : BusRequest) : (s.respond q).fault = s.fault := rfl
@[simp] theorem State.respond_rsp (q : BusRequest) : (s.respond q).rsp = some { q with interruptPending := s.pending } := rfl
@[simp] theorem State.respond_running (q : BusRequest) : (s.respond q).running = s.running := rfl
@[simp] theorem State.respond_inputs (q : BusRequest) : (s.respond q).inputs = s.inputs := rfl
@[simp] theorem State.respond_inputDraws (q : BusRequest) : (s.respond q).inputDraws = s.inputDraws := rfl
@[simp] theorem State.respond_lcdDraws (q : BusRequest) : (s.respond q).lcdDraws = s.lcdDraws := rfl
@[simp] theorem State.respond_readCell (q : BusRequest) (c : PhysCell) : (s.respond q).readCell c = s.readCell c := rfl
@[simp] theorem State.respond_cellOf (q : BusRequest) (x : Addr) : (s.respond q).cellOf x = s.cellOf x := rfl
@[simp] theorem State.respond_memRead (q : BusRequest) (x : Addr) : (s.respond q).memRead x = s.memRead x := rfl

@[simp] theorem State.emit_config (e : DeviceEvent) : (s.emit e).config = s.config := rfl
@[simp] theorem State.emit_rom (e : DeviceEvent) : (s.emit e).rom = s.rom := rfl
@[simp] theorem State.emit_ram (e : DeviceEvent) : (s.emit e).ram = s.ram := rfl
@[simp] theorem State.emit_banks (e : DeviceEvent) : (s.emit e).banks = s.banks := rfl
@[simp] theorem State.emit_bank (e : DeviceEvent) : (s.emit e).bank = s.bank := rfl
@[simp] theorem State.emit_pending (e : DeviceEvent) : (s.emit e).pending = s.pending := rfl
@[simp] theorem State.emit_vector (e : DeviceEvent) : (s.emit e).vector = s.vector := rfl
@[simp] theorem State.emit_kbd (e : DeviceEvent) : (s.emit e).kbd = s.kbd := rfl
@[simp] theorem State.emit_trace (e : DeviceEvent) : (s.emit e).trace = s.trace ++ [e] := rfl
@[simp] theorem State.emit_fault (e : DeviceEvent) : (s.emit e).fault = s.fault := rfl
@[simp] theorem State.emit_rsp (e : DeviceEvent) : (s.emit e).rsp = s.rsp := rfl
@[simp] theorem State.emit_running (e : DeviceEvent) : (s.emit e).running = s.running := rfl
@[simp] theorem State.emit_inputs (e : DeviceEvent) : (s.emit e).inputs = s.inputs := rfl
@[simp] theorem State.emit_inputDraws (e : DeviceEvent) : (s.emit e).inputDraws = s.inputDraws := rfl
@[simp] theorem State.emit_lcdDraws (e : DeviceEvent) : (s.emit e).lcdDraws = s.lcdDraws := rfl
@[simp] theorem State.emit_readCell (e : DeviceEvent) (c : PhysCell) : (s.emit e).readCell c = s.readCell c := rfl
@[simp] theorem State.emit_cellOf (e : DeviceEvent) (x : Addr) : (s.emit e).cellOf x = s.cellOf x := rfl
@[simp] theorem State.emit_memRead (e : DeviceEvent) (x : Addr) : (s.emit e).memRead x = s.memRead x := rfl

@[simp] theorem State.selectBank_config (v : Byte) : (s.selectBank v).config = s.config := rfl
@[simp] theorem State.selectBank_rom (v : Byte) : (s.selectBank v).rom = s.rom := rfl
@[simp] theorem State.selectBank_ram (v : Byte) : (s.selectBank v).ram = s.ram := rfl
@[simp] theorem State.selectBank_banks (v : Byte) : (s.selectBank v).banks = s.banks := rfl
@[simp] theorem State.selectBank_bank (v : Byte) : (s.selectBank v).bank = s.config.legalize v := rfl
@[simp] theorem State.selectBank_pending (v : Byte) : (s.selectBank v).pending = s.pending := rfl
@[simp] theorem State.selectBank_vector (v : Byte) : (s.selectBank v).vector = s.vector := rfl
@[simp] theorem State.selectBank_kbd (v : Byte) : (s.selectBank v).kbd = s.kbd := rfl
@[simp] theorem State.selectBank_trace (v : Byte) : (s.selectBank v).trace = s.trace := rfl
@[simp] theorem State.selectBank_fault (v : Byte) : (s.selectBank v).fault = s.fault := rfl
@[simp] theorem State.selectBank_rsp (v : Byte) : (s.selectBank v).rsp = s.rsp := rfl
@[simp] theorem State.selectBank_running (v : Byte) : (s.selectBank v).running = s.running := rfl
@[simp] theorem State.selectBank_inputs (v : Byte) : (s.selectBank v).inputs = s.inputs := rfl
@[simp] theorem State.selectBank_inputDraws (v : Byte) : (s.selectBank v).inputDraws = s.inputDraws := rfl
@[simp] theorem State.selectBank_lcdDraws (v : Byte) : (s.selectBank v).lcdDraws = s.lcdDraws := rfl
@[simp] theorem State.selectBank_readCell (v : Byte) (c : PhysCell) : (s.selectBank v).readCell c = s.readCell c := rfl

@[simp] theorem State.raiseInterrupt_config : (s.raiseInterrupt).config = s.config := rfl
@[simp] theorem State.raiseInterrupt_rom : (s.raiseInterrupt).rom = s.rom := rfl
@[simp] theorem State.raiseInterrupt_ram : (s.raiseInterrupt).ram = s.ram := rfl
@[simp] theorem State.raiseInterrupt_banks : (s.raiseInterrupt).banks = s.banks := rfl
@[simp] theorem State.raiseInterrupt_bank : (s.raiseInterrupt).bank = s.bank := rfl
@[simp] theorem State.raiseInterrupt_pending : (s.raiseInterrupt).pending = true := rfl
@[simp] theorem State.raiseInterrupt_vector : (s.raiseInterrupt).vector = s.vector := rfl
@[simp] theorem State.raiseInterrupt_kbd : (s.raiseInterrupt).kbd = s.kbd := rfl
@[simp] theorem State.raiseInterrupt_trace : (s.raiseInterrupt).trace = s.trace := rfl
@[simp] theorem State.raiseInterrupt_fault : (s.raiseInterrupt).fault = s.fault := rfl
@[simp] theorem State.raiseInterrupt_rsp : (s.raiseInterrupt).rsp = s.rsp := rfl
@[simp] theorem State.raiseInterrupt_running : (s.raiseInterrupt).running = s.running := rfl
@[simp] theorem State.raiseInterrupt_inputs : (s.raiseInterrupt).inputs = s.inputs := rfl
@[simp] theorem State.raiseInterrupt_inputDraws : (s.raiseInterrupt).inputDraws = s.inputDraws := rfl
@[simp] theorem State.raiseInterrupt_lcdDraws : (s.raiseInterrupt).lcdDraws = s.lcdDraws := rfl
@[simp] theorem State.raiseInterrupt_readCell (c : PhysCell) : (s.raiseInterrupt).readCell c = s.readCell c := rfl
@[simp] theorem State.raiseInterrupt_cellOf (x : Addr) : (s.raiseInterrupt).cellOf x = s.cellOf x := rfl
@[simp] theorem State.raiseInterrupt_memRead (x : Addr) : (s.raiseInterrupt).memRead x = s.memRead x := rfl

@[simp] theorem State.clearInterrupt_config : (s.clearInterrupt).config = s.config := rfl
@[simp] theorem State.clearInterrupt_rom : (s.clearInterrupt).rom = s.rom := rfl
@[simp] theorem State.clearInterrupt_ram : (s.clearInterrupt).ram = s.ram := rfl
@[simp] theorem State.clearInterrupt_banks : (s.clearInterrupt).banks = s.banks := rfl
@[simp] theorem State.clearInterrupt_bank : (s.clearInterrupt).bank = s.bank := rfl
@[simp] theorem State.clearInterrupt_pending : (s.clearInterrupt).pending = false := rfl
@[simp] theorem State.clearInterrupt_vector : (s.clearInterrupt).vector = s.vector := rfl
@[simp] theorem State.clearInterrupt_kbd : (s.clearInterrupt).kbd = s.kbd := rfl
@[simp] theorem State.clearInterrupt_trace : (s.clearInterrupt).trace = s.trace := rfl
@[simp] theorem State.clearInterrupt_fault : (s.clearInterrupt).fault = s.fault := rfl
@[simp] theorem State.clearInterrupt_rsp : (s.clearInterrupt).rsp = s.rsp := rfl
@[simp] theorem State.clearInterrupt_running : (s.clearInterrupt).running = s.running := rfl
@[simp] theorem State.clearInterrupt_inputs : (s.clearInterrupt).inputs = s.inputs := rfl
@[simp] theorem State.clearInterrupt_inputDraws : (s.clearInterrupt).inputDraws = s.inputDraws := rfl
@[simp] theorem State.clearInterrupt_lcdDraws : (s.clearInterrupt).lcdDraws = s.lcdDraws := rfl
@[simp] theorem State.clearInterrupt_readCell (c : PhysCell) : (s.clearInterrupt).readCell c = s.readCell c := rfl
@[simp] theorem State.clearInterrupt_cellOf (x : Addr) : (s.clearInterrupt).cellOf x = s.cellOf x := rfl
@[simp] theorem State.clearInterrupt_memRead (x : Addr) : (s.clearInterrupt).memRead x = s.memRead x := rfl

@[simp] theorem State.raiseFault_config (r : FaultReason) : (s.raiseFault r).config = s.config := rfl
@[simp] theorem State.raiseFault_rom (r : FaultReason) : (s.raiseFault r).rom = s.rom := rfl
@[simp] theorem State.raiseFault_ram (r : FaultReason) : (s.raiseFault r).ram = s.ram := rfl
@[simp] theorem State.raiseFault_banks (r : FaultReason) : (s.raiseFault r).banks = s.banks := rfl
@[simp] theorem State.raiseFault_bank (r : FaultReason) : (s.raiseFault r).bank = s.bank := rfl
@[simp] theorem State.raiseFault_pending (r : FaultReason) : (s.raiseFault r).pending = s.pending := rfl
@[simp] theorem State.raiseFault_vector (r : FaultReason) : (s.raiseFault r).vector = s.vector := rfl
@[simp] theorem State.raiseFault_kbd (r : FaultReason) : (s.raiseFault r).kbd = s.kbd := rfl
@[simp] theorem State.raiseFault_trace (r : FaultReason) : (s.raiseFault r).trace = s.trace := rfl
@[simp] theorem State.raiseFault_fault (r : FaultReason) : (s.raiseFault r).fault = some r := rfl
@[simp] theorem State.raiseFault_rsp (r : FaultReason) : (s.raiseFault r).rsp = s.rsp := rfl
@[simp] theorem State.raiseFault_running (r : FaultReason) : (s.raiseFault r).running = s.running := rfl
@[simp] theorem State.raiseFault_inputs (r : FaultReason) : (s.raiseFault r).inputs = s.inputs := rfl
@[simp] theorem State.raiseFault_inputDraws (r : FaultReason) : (s.raiseFault r).inputDraws = s.inputDraws := rfl
@[simp] theorem State.raiseFault_lcdDraws (r : FaultReason) : (s.raiseFault r).lcdDraws = s.lcdDraws := rfl
@[simp] theorem State.raiseFault_readCell (r : FaultReason) (c : PhysCell) : (s.raiseFault r).readCell c = s.readCell c := rfl
@[simp] theorem State.raiseFault_cellOf (r : FaultReason) (x : Addr) : (s.raiseFault r).cellOf x = s.cellOf x := rfl
@[simp] theorem State.raiseFault_memRead (r : FaultReason) (x : Addr) : (s.raiseFault r).memRead x = s.memRead x := rfl

@[simp] theorem State.hostKey_config (b : Byte) : (s.hostKey b).config = s.config := rfl
@[simp] theorem State.hostKey_rom (b : Byte) : (s.hostKey b).rom = s.rom := rfl
@[simp] theorem State.hostKey_ram (b : Byte) : (s.hostKey b).ram = s.ram := rfl
@[simp] theorem State.hostKey_banks (b : Byte) : (s.hostKey b).banks = s.banks := rfl
@[simp] theorem State.hostKey_bank (b : Byte) : (s.hostKey b).bank = s.bank := rfl
@[simp] theorem State.hostKey_pending (b : Byte) : (s.hostKey b).pending = true := rfl
@[simp] theorem State.hostKey_vector (b : Byte) : (s.hostKey b).vector = s.vector := rfl
@[simp] theorem State.hostKey_kbd (b : Byte) : (s.hostKey b).kbd = b := rfl
@[simp] theorem State.hostKey_trace (b : Byte) : (s.hostKey b).trace = s.trace := rfl
@[simp] theorem State.hostKey_fault (b : Byte) : (s.hostKey b).fault = s.fault := rfl
@[simp] theorem State.hostKey_rsp (b : Byte) : (s.hostKey b).rsp = s.rsp := rfl
@[simp] theorem State.hostKey_running (b : Byte) : (s.hostKey b).running = s.running := rfl
@[simp] theorem State.hostKey_inputs (b : Byte) : (s.hostKey b).inputs = s.inputs := rfl
@[simp] theorem State.hostKey_inputDraws (b : Byte) : (s.hostKey b).inputDraws = s.inputDraws := rfl
@[simp] theorem State.hostKey_lcdDraws (b : Byte) : (s.hostKey b).lcdDraws = s.lcdDraws := rfl
@[simp] theorem State.hostKey_readCell (b : Byte) (c : PhysCell) : (s.hostKey b).readCell c = s.readCell c := rfl
@[simp] theorem State.hostKey_cellOf (b : Byte) (x : Addr) : (s.hostKey b).cellOf x = s.cellOf x := rfl
@[simp] theorem State.hostKey_memRead (b : Byte) (x : Addr) : (s.hostKey b).memRead x = s.memRead x := rfl

@[simp] theorem State.hostStop_config : (s.hostStop).config = s.config := rfl
@[simp] theorem State.hostStop_rom : (s.hostStop).rom = s.rom := rfl
@[simp] theorem State.hostStop_ram : (s.hostStop).ram = s.ram := rfl
@[simp] theorem State.hostStop_banks : (s.hostStop).banks = s.banks := rfl
@[simp] theorem State.hostStop_bank : (s.hostStop).bank = s.bank := rfl
@[simp] theorem State.hostStop_pending : (s.hostStop).pending = s.pending := rfl
@[simp] theorem State.hostStop_vector : (s.hostStop).vector = s.vector := rfl
@[simp] theorem State.hostStop_kbd : (s.hostStop).kbd = s.kbd := rfl
@[simp] theorem State.hostStop_trace : (s.hostStop).trace = s.trace := rfl
@[simp] theorem State.hostStop_fault : (s.hostStop).fault = s.fault := rfl
@[simp] theorem State.hostStop_rsp : (s.hostStop).rsp = s.rsp := rfl
@[simp] theorem State.hostStop_running : (s.hostStop).running = false := rfl
@[simp] theorem State.hostStop_inputs : (s.hostStop).inputs = s.inputs := rfl
@[simp] theorem State.hostStop_inputDraws : (s.hostStop).inputDraws = s.inputDraws := rfl
@[simp] theorem State.hostStop_lcdDraws : (s.hostStop).lcdDraws = s.lcdDraws := rfl
@[simp] theorem State.hostStop_readCell (c : PhysCell) : (s.hostStop).readCell c = s.readCell c := rfl
@[simp] theorem State.hostStop_cellOf (x : Addr) : (s.hostStop).cellOf x = s.cellOf x := rfl
@[simp] theorem State.hostStop_memRead (x : Addr) : (s.hostStop).memRead x = s.memRead x := rfl

@[simp] theorem State.withFetchWord_config (n w : Nat) : (s.withFetchWord n w).config = s.config := rfl
@[simp] theorem State.withFetchWord_rom (n w : Nat) : (s.withFetchWord n w).rom = s.rom := rfl
@[simp] theorem State.withFetchWord_ram (n w : Nat) : (s.withFetchWord n w).ram = s.ram := rfl
@[simp] theorem State.withFetchWord_banks (n w : Nat) : (s.withFetchWord n w).banks = s.banks := rfl
@[simp] theorem State.withFetchWord_bank (n w : Nat) : (s.withFetchWord n w).bank = s.bank := rfl
@[simp] theorem State.withFetchWord_pending (n w : Nat) : (s.withFetchWord n w).pending = s.pending := rfl
@[simp] theorem State.withFetchWord_vector (n w : Nat) : (s.withFetchWord n w).vector = s.vector := rfl
@[simp] theorem State.withFetchWord_kbd (n w : Nat) : (s.withFetchWord n w).kbd = s.kbd := rfl
@[simp] theorem State.withFetchWord_trace (n w : Nat) : (s.withFetchWord n w).trace = s.trace := rfl
@[simp] theorem State.withFetchWord_fault (n w : Nat) : (s.withFetchWord n w).fault = s.fault := rfl
@[simp] theorem State.withFetchWord_rsp (n w : Nat) : (s.withFetchWord n w).rsp = s.rsp := rfl
@[simp] theorem State.withFetchWord_running (n w : Nat) : (s.withFetchWord n w).running = s.running := rfl
@[simp] theorem State.withFetchWord_inputs (n w : Nat) : (s.withFetchWord n w).inputs = .tick (unpack (wordOfBits n w)) :: s.inputs := rfl
@[simp] theorem State.withFetchWord_inputDraws (n w : Nat) : (s.withFetchWord n w).inputDraws = s.inputDraws := rfl
@[simp] theorem State.withFetchWord_lcdDraws (n w : Nat) : (s.withFetchWord n w).lcdDraws = s.lcdDraws := rfl
@[simp] theorem State.withFetchWord_readCell (n w : Nat) (c : PhysCell) : (s.withFetchWord n w).readCell c = s.readCell c := rfl
@[simp] theorem State.withFetchWord_cellOf (n w : Nat) (x : Addr) : (s.withFetchWord n w).cellOf x = s.cellOf x := rfl
@[simp] theorem State.withFetchWord_memRead (n w : Nat) (x : Addr) : (s.withFetchWord n w).memRead x = s.memRead x := rfl

end Sys2Proof.Machine
end

