-- ==== Sys2Proof/Laws/Ops.lean ====
section
/-! SUPPORT. For each shared operation, what it can do, said once: the guard on FAULT, the next input, the address
space, the device handlers, construction. -/

namespace Sys2Proof.Machine

/-- A guarded action answers a next state exactly when FAULT is none, and then the action's. -/
theorem State.unlessFaulted_eq_next {s t : State} {f : State → State} :
    s.unlessFaulted f = .next t ↔ s.fault = none ∧ f s = t := by
  unfold State.unlessFaulted
  split <;> simp_all

theorem State.unlessFaulted_of_none {s : State} (h : s.fault = none) (f : State → State) :
    s.unlessFaulted f = .next (f s) := by simp [State.unlessFaulted, h]

theorem State.unlessFaulted_of_some {s : State} {r : FaultReason} (h : s.fault = some r) (f : State → State) :
    s.unlessFaulted f = .fault (.faulted r) := by simp [State.unlessFaulted, h]

/-- Taking an input changes the queue and its counter only. -/
theorem State.nextInput_state (s : State) :
    ∃ l n, s.nextInput.2 = { s with inputs := l, inputDraws := n } := by
  unfold State.nextInput
  split
  · exact ⟨_, s.inputDraws, rfl⟩
  · rename_i h
    exact ⟨s.inputs, _, rfl⟩

/-- What a step that answers a next state did: nothing after a stop, else it served the next descriptor or took the
next host event. -/
theorem step_cases {s t : State} (h : step s = .next t) :
    s.fault = none ∧
      ((s.running = false ∧ t = s) ∨
       (s.running = true ∧ ∃ req s', s.nextInput = (.tick req, s') ∧ exec (decodeRequest req) s' = .next t) ∨
       (s.running = true ∧ ∃ e s', s.nextInput = (.host e, s') ∧ takeHostEvent e s' = .next t)) := by
  unfold step at h
  split at h
  · cases h
  · rename_i hf hr
    cases h
    exact ⟨hf, .inl ⟨hr, rfl⟩⟩
  · rename_i hf hr
    split at h
    · rename_i req s' hn
      exact ⟨hf, .inr (.inl ⟨hr, req, s', hn, h⟩)⟩
    · rename_i e s' hn
      exact ⟨hf, .inr (.inr ⟨hr, e, s', hn, h⟩)⟩

/-- Which cell an address reaches, region by region (R41, R49). -/
theorem State.cellOf_cases (s : State) (a : Addr) :
    (s.config.region a = .rom ∧ s.cellOf a = some (.rom (s.config.rom.offset a))) ∨
    (s.config.region a = .ram ∧ s.cellOf a = some (.ram (s.config.ram.offset a))) ∨
    (s.config.region a = .win ∧ s.cellOf a = some (.bank s.bank (s.config.win.offset a))) ∨
    (s.config.region a = .unmapped ∧ s.cellOf a = none) := by
  unfold State.cellOf
  cases h : s.config.region a <;> simp

/-- What a memory write can do: nothing (ROM or unmapped), or one RAM byte, or one byte of the active bank (R43). -/
theorem State.memWrite_cases (s : State) (a : Addr) (v : Byte) :
    ((s.config.region a = .rom ∨ s.config.region a = .unmapped) ∧ s.memWrite a v = s) ∨
    (s.config.region a = .ram ∧ s.memWrite a v = { s with ram := s.ram.write (s.config.ram.offset a) v }) ∨
    (s.config.region a = .win ∧ s.memWrite a v =
      { s with banks := s.banks.set s.bank ((s.bankArray s.bank).write (s.config.win.offset a) v) }) := by
  rcases s.cellOf_cases a with ⟨hr, hc⟩ | ⟨hr, hc⟩ | ⟨hr, hc⟩ | ⟨hr, hc⟩ <;> simp [State.memWrite, hr, hc]

/-- The read side of a device: its byte, and what it does to the state (R105, R110, R112, R114, R115). -/
theorem State.deviceRead_cases (s : State) (a : Addr) :
    (s.config.device (s.config.devId a) = some .terminal ∧
      s.deviceRead a = (s.kbd, if s.config.kbdReadClears then { s with kbd := 0x00 } else s)) ∨
    ((s.config.device (s.config.devId a) = some .bankSel ∨ s.config.device (s.config.devId a) = none) ∧
      s.deviceRead a = (0x00, s)) ∨
    (s.config.device (s.config.devId a) = some .lcd ∧
      s.deviceRead a = s.lcdRead (s.config.lcdSide (s.config.devId a))) := by
  unfold State.deviceRead
  rcases h : s.config.device (s.config.devId a) with _ | _ | _ | _ <;>
    simp_all [State.terminalRead, State.bankSelRead, State.unregisteredRead, sentinel]

/-- The event a device write emits, if any (R109, R111, R113, R116). -/
theorem State.deviceWrite_cases (s : State) (a : Addr) (v : Byte) :
    (s.config.device (s.config.devId a) = some .terminal ∧ s.deviceWrite a v = s.emit (.termOut v)) ∨
    (s.config.device (s.config.devId a) = some .bankSel ∧ s.deviceWrite a v = s.selectBank v) ∨
    (s.config.device (s.config.devId a) = some .lcd ∧ s.config.lcdSide (s.config.devId a) = .command ∧
      s.deviceWrite a v = s.emit (.lcdCmd v)) ∨
    (s.config.device (s.config.devId a) = some .lcd ∧ s.config.lcdSide (s.config.devId a) = .data ∧
      s.deviceWrite a v = s.emit (.lcdData v)) ∨
    (s.config.device (s.config.devId a) = none ∧ s.deviceWrite a v = s) := by
  unfold State.deviceWrite
  rcases h : s.config.device (s.config.devId a) with _ | _ | _ | _ <;>
    cases hl : s.config.lcdSide (s.config.devId a) <;>
    simp_all [State.terminalWrite, State.bankSelWrite, State.unregisteredWrite, State.lcdWrite]

/-- The bank side effect of an I/O write (R117). -/
theorem State.hiBankWrite_cases (s : State) (a : Addr) (v : Byte) :
    (s.config.hiBank a = true ∧ s.hiBankWrite a v = s.selectBank v) ∨
    (s.config.hiBank a = false ∧ s.hiBankWrite a v = s) := by
  unfold State.hiBankWrite
  cases s.config.hiBank a <;> simp

end Sys2Proof.Machine

namespace Sys2Proof

/-- A configuration is admitted exactly when no check fails (R9). -/
theorem Config.failedCheck_eq_none_iff (c : Config) : c.failedCheck = none ↔ c.wellFormed = true := by
  simp [Config.failedCheck, Config.wellFormed, List.find?_eq_none]

/-- The offset of an address inside a region is below the region's size (R22). -/
theorem Span.offset_lt {r : Span} {a : Addr} (h : r.contains a) : r.offset a < r.size := by
  unfold Span.offset
  have := h.1
  have := h.2
  omega

/-- What the region decoder's answers mean (R41). -/
theorem Config.contains_of_region {c : Config} {a : Addr} :
    (c.region a = .rom → c.rom.contains a) ∧ (c.region a = .ram → c.ram.contains a) ∧
      (c.region a = .win → c.win.contains a) := by
  unfold Config.region
  by_cases h1 : c.rom.contains a
  · rw [if_pos h1]
    simpa using h1
  · by_cases h2 : c.ram.contains a
    · rw [if_neg h1, if_pos h2]
      simpa using h2
    · by_cases h3 : c.win.contains a
      · rw [if_neg h1, if_neg h2, if_pos h3]
        simpa using h3
      · rw [if_neg h1, if_neg h2, if_neg h3]
        simp

end Sys2Proof

namespace Sys2Proof.Machine

/-- What construction gives when it succeeds (R165). -/
theorem State.construct_eq_ok {c : Config} {image : Option (List Byte)} {kbd : Byte} {t : State}
    (h : State.construct c image kbd = .ok t) :
    c.wellFormed = true ∧ ∃ bytes, image = some bytes ∧ t =
      { config := c, rom := loadImage c.rom.size bytes, ram := [], banks := List.replicate c.bankCount [],
        bank := 0, pending := false, vector := c.irqVector, kbd := kbd, trace := [], fault := none, rsp := none,
        running := true, inputs := [], inputDraws := 0, lcdDraws := 0 } := by
  unfold State.construct at h
  split at h
  · cases h
  · cases h
  · rename_i bytes hw
    cases h
    exact ⟨(Config.failedCheck_eq_none_iff c).1 hw, bytes, rfl, rfl⟩

/-- The state after reset is the construction of MULTI_BANK from an empty image and the keyboard byte 0x00. -/
theorem State.reset_eq_construct : State.construct Config.multiBank (some []) 0x00 = .ok State.reset := by
  have h : Config.multiBank.failedCheck = none := by decide
  simp only [State.construct, h]
  rfl

/-- Two addresses that reach the same physical cell are the same address. -/
theorem State.cellOf_injective {s : State} {a b : Addr} {c : PhysCell} (ha : s.cellOf a = some c)
    (hb : s.cellOf b = some c) : a = b := by
  have key : ∀ r : Span, r.contains a → r.contains b → r.offset a = r.offset b → a = b := fun r h h' e => by
    simp only [Span.offset] at e
    exact BitVec.eq_of_toNat_eq (by omega)
  rcases s.cellOf_cases a with ⟨ra, ea⟩ | ⟨ra, ea⟩ | ⟨ra, ea⟩ | ⟨ra, ea⟩ <;>
    rcases s.cellOf_cases b with ⟨rb, eb⟩ | ⟨rb, eb⟩ | ⟨rb, eb⟩ | ⟨rb, eb⟩ <;>
    simp only [ea, eb, Option.some.injEq, reduceCtorEq] at ha hb <;> subst ha <;> simp at hb
  · exact key _ (Config.contains_of_region.1 ra) (Config.contains_of_region.1 rb) hb.symm
  · exact key _ (Config.contains_of_region.2.1 ra) (Config.contains_of_region.2.1 rb) hb.symm
  · exact key _ (Config.contains_of_region.2.2 ra) (Config.contains_of_region.2.2 rb) hb.symm

end Sys2Proof.Machine
end

