-- ==== Sys2Proof/Laws/Exec.lean ====
section
/-! SUPPORT. What a service does, said once: the state after each kind's rule and its answer, and that `exec` is that
effect behind the guard on FAULT. -/

namespace Sys2Proof.Machine

/-- The state a service of each kind leaves (R86 to R130), FAULT being none before it. -/
def effect : Instr → State → State
  | .idle r w k a d, s           => s.respond (Instr.idle r w k a d).request
  | .busConflict _ _ _ _ _, s    => s.raiseFault .busConflict
  | .memRead k a d, s            => s.respond { (Instr.memRead k a d).request with data := s.memRead a }
  | .memWrite k a d, s           => (s.memWrite a d).respond (Instr.memWrite k a d).request
  | .memNone k a d, s            => s.respond (Instr.memNone k a d).request
  | .memRwConflict _ _ _, s      => s.raiseFault .memRwConflict
  | .intAck r w a d, s           => s.clearInterrupt.respond { (Instr.intAck r w a d).request with data := s.vector }
  | .ioRead a d, s               =>
    (s.deviceRead a).2.respond { (Instr.ioRead a d).request with data := (s.deviceRead a).1 }
  | .ioWrite a d, s              => ((s.hiBankWrite a d).deviceWrite a d).respond (Instr.ioWrite a d).request
  | .ioNone a d, s               => s.respond (Instr.ioNone a d).request
  | .ioRwConflict _ _, s         => s.raiseFault .ioRwConflict

theorem exec_eq (i : Instr) (s : State) : exec i s = s.unlessFaulted (effect i) := by cases i <;> rfl

theorem exec_eq_next {i : Instr} {s t : State} : exec i s = .next t ↔ s.fault = none ∧ effect i s = t := by
  rw [exec_eq, State.unlessFaulted_eq_next]

theorem exec_of_none (i : Instr) {s : State} (h : s.fault = none) : exec i s = .next (effect i s) := by
  rw [exec_eq, State.unlessFaulted_of_none h]

theorem exec_of_some (i : Instr) {s : State} {r : FaultReason} (h : s.fault = some r) :
    exec i s = .fault (.faulted r) := by
  rw [exec_eq, State.unlessFaulted_of_some h]

theorem takeHostEvent_eq_next {e : HostEvent} {s t : State} :
    takeHostEvent e s = .next t ↔ s.fault = none ∧ s.hostEvent e = t := by
  unfold takeHostEvent
  exact State.unlessFaulted_eq_next

theorem takeHostEvent_of_none (e : HostEvent) {s : State} (h : s.fault = none) :
    takeHostEvent e s = .next (s.hostEvent e) := State.unlessFaulted_of_none h _

theorem takeHostEvent_of_some (e : HostEvent) {s : State} {r : FaultReason} (h : s.fault = some r) :
    takeHostEvent e s = .fault (.faulted r) := State.unlessFaulted_of_some h _

/-- A memory write changes RAM and BANKS only (R43). -/
theorem State.memWrite_eta (s : State) (a : Addr) (v : Byte) :
    s.memWrite a v = { s with ram := (s.memWrite a v).ram, banks := (s.memWrite a v).banks } := by
  rcases s.memWrite_cases a v with ⟨-, h⟩ | ⟨-, h⟩ | ⟨-, h⟩ <;> rw [h]

/-- A device read changes KBD, TRACE and the model's draw counter only (R105, R112, R114). -/
theorem State.deviceRead_eta (s : State) (a : Addr) :
    (s.deviceRead a).2 =
      { s with kbd := (s.deviceRead a).2.kbd, trace := (s.deviceRead a).2.trace,
               lcdDraws := (s.deviceRead a).2.lcdDraws } := by
  rcases s.deviceRead_cases a with ⟨-, h⟩ | ⟨-, h⟩ | ⟨-, h⟩ <;> rw [h]
  · cases s.config.kbdReadClears <;> rfl
  · rfl

/-- A device write changes BANK and TRACE only (R106, R109, R111, R113). -/
theorem State.deviceWrite_eta (s : State) (a : Addr) (v : Byte) :
    s.deviceWrite a v = { s with bank := (s.deviceWrite a v).bank, trace := (s.deviceWrite a v).trace } := by
  rcases s.deviceWrite_cases a v with ⟨-, h⟩ | ⟨-, h⟩ | ⟨-, -, h⟩ | ⟨-, -, h⟩ | ⟨-, h⟩ <;> simp only [h] <;> rfl

/-- The bank side effect changes BANK only (R117). -/
theorem State.hiBankWrite_eta (s : State) (a : Addr) (v : Byte) :
    s.hiBankWrite a v = { s with bank := (s.hiBankWrite a v).bank } := by
  rcases s.hiBankWrite_cases a v with ⟨-, h⟩ | ⟨-, h⟩
  · rw [h]
    rfl
  · rw [h]

@[simp] theorem State.memWrite_config (s : State) (a : Addr) (v : Byte) : (s.memWrite a v).config = s.config := by rw [State.memWrite_eta]
@[simp] theorem State.memWrite_rom (s : State) (a : Addr) (v : Byte) : (s.memWrite a v).rom = s.rom := by rw [State.memWrite_eta]
@[simp] theorem State.memWrite_bank (s : State) (a : Addr) (v : Byte) : (s.memWrite a v).bank = s.bank := by rw [State.memWrite_eta]
@[simp] theorem State.memWrite_pending (s : State) (a : Addr) (v : Byte) : (s.memWrite a v).pending = s.pending := by rw [State.memWrite_eta]
@[simp] theorem State.memWrite_vector (s : State) (a : Addr) (v : Byte) : (s.memWrite a v).vector = s.vector := by rw [State.memWrite_eta]
@[simp] theorem State.memWrite_kbd (s : State) (a : Addr) (v : Byte) : (s.memWrite a v).kbd = s.kbd := by rw [State.memWrite_eta]
@[simp] theorem State.memWrite_trace (s : State) (a : Addr) (v : Byte) : (s.memWrite a v).trace = s.trace := by rw [State.memWrite_eta]
@[simp] theorem State.memWrite_fault (s : State) (a : Addr) (v : Byte) : (s.memWrite a v).fault = s.fault := by rw [State.memWrite_eta]
@[simp] theorem State.memWrite_rsp (s : State) (a : Addr) (v : Byte) : (s.memWrite a v).rsp = s.rsp := by rw [State.memWrite_eta]
@[simp] theorem State.memWrite_running (s : State) (a : Addr) (v : Byte) : (s.memWrite a v).running = s.running := by rw [State.memWrite_eta]
@[simp] theorem State.memWrite_inputs (s : State) (a : Addr) (v : Byte) : (s.memWrite a v).inputs = s.inputs := by rw [State.memWrite_eta]
@[simp] theorem State.memWrite_inputDraws (s : State) (a : Addr) (v : Byte) : (s.memWrite a v).inputDraws = s.inputDraws := by rw [State.memWrite_eta]
@[simp] theorem State.memWrite_lcdDraws (s : State) (a : Addr) (v : Byte) : (s.memWrite a v).lcdDraws = s.lcdDraws := by rw [State.memWrite_eta]

@[simp] theorem State.deviceRead_config (s : State) (a : Addr) : (s.deviceRead a).2.config = s.config := by rw [State.deviceRead_eta]
@[simp] theorem State.deviceRead_rom (s : State) (a : Addr) : (s.deviceRead a).2.rom = s.rom := by rw [State.deviceRead_eta]
@[simp] theorem State.deviceRead_ram (s : State) (a : Addr) : (s.deviceRead a).2.ram = s.ram := by rw [State.deviceRead_eta]
@[simp] theorem State.deviceRead_banks (s : State) (a : Addr) : (s.deviceRead a).2.banks = s.banks := by rw [State.deviceRead_eta]
@[simp] theorem State.deviceRead_bank (s : State) (a : Addr) : (s.deviceRead a).2.bank = s.bank := by rw [State.deviceRead_eta]
@[simp] theorem State.deviceRead_pending (s : State) (a : Addr) : (s.deviceRead a).2.pending = s.pending := by rw [State.deviceRead_eta]
@[simp] theorem State.deviceRead_vector (s : State) (a : Addr) : (s.deviceRead a).2.vector = s.vector := by rw [State.deviceRead_eta]
@[simp] theorem State.deviceRead_fault (s : State) (a : Addr) : (s.deviceRead a).2.fault = s.fault := by rw [State.deviceRead_eta]
@[simp] theorem State.deviceRead_rsp (s : State) (a : Addr) : (s.deviceRead a).2.rsp = s.rsp := by rw [State.deviceRead_eta]
@[simp] theorem State.deviceRead_running (s : State) (a : Addr) : (s.deviceRead a).2.running = s.running := by rw [State.deviceRead_eta]
@[simp] theorem State.deviceRead_inputs (s : State) (a : Addr) : (s.deviceRead a).2.inputs = s.inputs := by rw [State.deviceRead_eta]
@[simp] theorem State.deviceRead_inputDraws (s : State) (a : Addr) : (s.deviceRead a).2.inputDraws = s.inputDraws := by rw [State.deviceRead_eta]

@[simp] theorem State.deviceWrite_config (s : State) (a : Addr) (v : Byte) : (s.deviceWrite a v).config = s.config := by rw [State.deviceWrite_eta]
@[simp] theorem State.deviceWrite_rom (s : State) (a : Addr) (v : Byte) : (s.deviceWrite a v).rom = s.rom := by rw [State.deviceWrite_eta]
@[simp] theorem State.deviceWrite_ram (s : State) (a : Addr) (v : Byte) : (s.deviceWrite a v).ram = s.ram := by rw [State.deviceWrite_eta]
@[simp] theorem State.deviceWrite_banks (s : State) (a : Addr) (v : Byte) : (s.deviceWrite a v).banks = s.banks := by rw [State.deviceWrite_eta]
@[simp] theorem State.deviceWrite_pending (s : State) (a : Addr) (v : Byte) : (s.deviceWrite a v).pending = s.pending := by rw [State.deviceWrite_eta]
@[simp] theorem State.deviceWrite_vector (s : State) (a : Addr) (v : Byte) : (s.deviceWrite a v).vector = s.vector := by rw [State.deviceWrite_eta]
@[simp] theorem State.deviceWrite_kbd (s : State) (a : Addr) (v : Byte) : (s.deviceWrite a v).kbd = s.kbd := by rw [State.deviceWrite_eta]
@[simp] theorem State.deviceWrite_fault (s : State) (a : Addr) (v : Byte) : (s.deviceWrite a v).fault = s.fault := by rw [State.deviceWrite_eta]
@[simp] theorem State.deviceWrite_rsp (s : State) (a : Addr) (v : Byte) : (s.deviceWrite a v).rsp = s.rsp := by rw [State.deviceWrite_eta]
@[simp] theorem State.deviceWrite_running (s : State) (a : Addr) (v : Byte) : (s.deviceWrite a v).running = s.running := by rw [State.deviceWrite_eta]
@[simp] theorem State.deviceWrite_inputs (s : State) (a : Addr) (v : Byte) : (s.deviceWrite a v).inputs = s.inputs := by rw [State.deviceWrite_eta]
@[simp] theorem State.deviceWrite_inputDraws (s : State) (a : Addr) (v : Byte) : (s.deviceWrite a v).inputDraws = s.inputDraws := by rw [State.deviceWrite_eta]
@[simp] theorem State.deviceWrite_lcdDraws (s : State) (a : Addr) (v : Byte) : (s.deviceWrite a v).lcdDraws = s.lcdDraws := by rw [State.deviceWrite_eta]

@[simp] theorem State.hiBankWrite_config (s : State) (a : Addr) (v : Byte) : (s.hiBankWrite a v).config = s.config := by rw [State.hiBankWrite_eta]
@[simp] theorem State.hiBankWrite_rom (s : State) (a : Addr) (v : Byte) : (s.hiBankWrite a v).rom = s.rom := by rw [State.hiBankWrite_eta]
@[simp] theorem State.hiBankWrite_ram (s : State) (a : Addr) (v : Byte) : (s.hiBankWrite a v).ram = s.ram := by rw [State.hiBankWrite_eta]
@[simp] theorem State.hiBankWrite_banks (s : State) (a : Addr) (v : Byte) : (s.hiBankWrite a v).banks = s.banks := by rw [State.hiBankWrite_eta]
@[simp] theorem State.hiBankWrite_pending (s : State) (a : Addr) (v : Byte) : (s.hiBankWrite a v).pending = s.pending := by rw [State.hiBankWrite_eta]
@[simp] theorem State.hiBankWrite_vector (s : State) (a : Addr) (v : Byte) : (s.hiBankWrite a v).vector = s.vector := by rw [State.hiBankWrite_eta]
@[simp] theorem State.hiBankWrite_kbd (s : State) (a : Addr) (v : Byte) : (s.hiBankWrite a v).kbd = s.kbd := by rw [State.hiBankWrite_eta]
@[simp] theorem State.hiBankWrite_trace (s : State) (a : Addr) (v : Byte) : (s.hiBankWrite a v).trace = s.trace := by rw [State.hiBankWrite_eta]
@[simp] theorem State.hiBankWrite_fault (s : State) (a : Addr) (v : Byte) : (s.hiBankWrite a v).fault = s.fault := by rw [State.hiBankWrite_eta]
@[simp] theorem State.hiBankWrite_rsp (s : State) (a : Addr) (v : Byte) : (s.hiBankWrite a v).rsp = s.rsp := by rw [State.hiBankWrite_eta]
@[simp] theorem State.hiBankWrite_running (s : State) (a : Addr) (v : Byte) : (s.hiBankWrite a v).running = s.running := by rw [State.hiBankWrite_eta]
@[simp] theorem State.hiBankWrite_inputs (s : State) (a : Addr) (v : Byte) : (s.hiBankWrite a v).inputs = s.inputs := by rw [State.hiBankWrite_eta]
@[simp] theorem State.hiBankWrite_inputDraws (s : State) (a : Addr) (v : Byte) : (s.hiBankWrite a v).inputDraws = s.inputDraws := by rw [State.hiBankWrite_eta]
@[simp] theorem State.hiBankWrite_lcdDraws (s : State) (a : Addr) (v : Byte) : (s.hiBankWrite a v).lcdDraws = s.lcdDraws := by rw [State.hiBankWrite_eta]

@[simp] theorem State.memWrite_cellOf (s : State) (a : Addr) (v : Byte) (x : Addr) :
    (s.memWrite a v).cellOf x = s.cellOf x := by simp [State.cellOf]

/-- A run goes on from the state a step answers. -/
theorem run_succ_of_next {s t : State} (n : Nat) (h : step s = .next t) :
    Host.Core.run Sys2Proof.core (n + 1) s = Host.Core.run Sys2Proof.core n t := by
  have h' : Sys2Proof.core.step s = .next t := h
  simp only [Host.Core.run, h']

/-- A run ends where a step stops. -/
theorem run_succ_of_fault {s : State} {r : Fault} (n : Nat) (h : step s = .fault r) :
    Host.Core.run Sys2Proof.core (n + 1) s = .fault r := by
  have h' : Sys2Proof.core.step s = .fault r := h
  simp only [Host.Core.run, h']

/-- A run that answers a state took a first step and went on from there. -/
theorem run_succ_eq_next {s t : State} {n : Nat} (h : Host.Core.run Sys2Proof.core (n + 1) s = .next t) :
    ∃ u, step s = .next u ∧ Host.Core.run Sys2Proof.core n u = .next t := by
  simp only [Host.Core.run] at h
  cases hs : Sys2Proof.core.step s with
  | next u =>
    rw [hs] at h
    exact ⟨u, hs, h⟩
  | fault r => simp [hs] at h
  | refused r => simp [hs] at h

end Sys2Proof.Machine
end

