-- ==== Sys2Proof/Laws/PerInstr.lean ====
section
/-! SUPPORT. The family EncodeKeepsEveryField: the encoded word of an instruction, read back field by field (R66), is the
instruction's descriptor, with no operand and no control bit lost. -/

namespace Sys2Proof

/-- The word of an instruction unpacks to its descriptor. -/
def Laws.EncodeKeepsEveryField.Statement (i : Instr) : Prop := unpack (encode i) = i.request

theorem Laws.EncodeKeepsEveryField.idle (r : Bool) (w : Bool) (k : Bool) (a : Addr) (d : Byte) :
    Laws.EncodeKeepsEveryField.Statement (.idle r w k a d) := unpack_pack _

theorem Laws.EncodeKeepsEveryField.busConflict (r : Bool) (w : Bool) (k : Bool) (a : Addr) (d : Byte) :
    Laws.EncodeKeepsEveryField.Statement (.busConflict r w k a d) := unpack_pack _

theorem Laws.EncodeKeepsEveryField.memRead (k : Bool) (a : Addr) (d : Byte) :
    Laws.EncodeKeepsEveryField.Statement (.memRead k a d) := unpack_pack _

theorem Laws.EncodeKeepsEveryField.memWrite (k : Bool) (a : Addr) (d : Byte) :
    Laws.EncodeKeepsEveryField.Statement (.memWrite k a d) := unpack_pack _

theorem Laws.EncodeKeepsEveryField.memNone (k : Bool) (a : Addr) (d : Byte) :
    Laws.EncodeKeepsEveryField.Statement (.memNone k a d) := unpack_pack _

theorem Laws.EncodeKeepsEveryField.memRwConflict (k : Bool) (a : Addr) (d : Byte) :
    Laws.EncodeKeepsEveryField.Statement (.memRwConflict k a d) := unpack_pack _

theorem Laws.EncodeKeepsEveryField.intAck (r : Bool) (w : Bool) (a : Addr) (d : Byte) :
    Laws.EncodeKeepsEveryField.Statement (.intAck r w a d) := unpack_pack _

theorem Laws.EncodeKeepsEveryField.ioRead (a : Addr) (d : Byte) :
    Laws.EncodeKeepsEveryField.Statement (.ioRead a d) := unpack_pack _

theorem Laws.EncodeKeepsEveryField.ioWrite (a : Addr) (d : Byte) :
    Laws.EncodeKeepsEveryField.Statement (.ioWrite a d) := unpack_pack _

theorem Laws.EncodeKeepsEveryField.ioNone (a : Addr) (d : Byte) :
    Laws.EncodeKeepsEveryField.Statement (.ioNone a d) := unpack_pack _

theorem Laws.EncodeKeepsEveryField.ioRwConflict (a : Addr) (d : Byte) :
    Laws.EncodeKeepsEveryField.Statement (.ioRwConflict a d) := unpack_pack _

end Sys2Proof
end

