-- ==== Sys2Proof/Tests/Slice0.lean ====
section
/-! SUPPORT. Tests on fixed values and the witnesses of the statements. Expected values are those of spec/95_test_vectors.md (the
section is named at each group) or are worked out by hand from the rule named. -/

namespace Sys2Proof.Tests

open Sys2Proof.Machine

/-! ### States the tests start from -/

/-- The spec's default configuration, with the image `C3 00 01`, RAM[0] = 0x5A, BANKS[1][0x123] = 0x3C, BANK = 1, a key
0x61 delivered and not yet acknowledged. -/
def busy : State :=
  { State.reset with
    rom := [(0, 0xC3), (2, 0x01)], ram := [(0, 0x5A)], banks := [[], [(0x123, 0x3C)], [], []], bank := 1,
    pending := true, kbd := 0x61 }

/-- The reset state under another configuration. -/
def resetWith (c : Config) : State :=
  { State.reset with config := c, banks := List.replicate c.bankCount [], vector := c.irqVector }

def clampConfig : Config := { Config.multiBank with bankPolicy := .clamp }
def hiBankConfig : Config := { clampConfig with devIdPolicy := .low7HiBank }
def lowSevenConfig : Config := { Config.multiBank with devIdPolicy := .low7 }
def clearsConfig : Config := { Config.multiBank with kbdReadClears := true }

/-- The next state of one outcome. -/
def after : Host.Outcome State Fault Refusal → Option State
  | .next t    => some t
  | .fault _   => none
  | .refused _ => none

/-- One tick in which the CPU core presents the word `w`. -/
def tick (s : State) (w : Nat) : Option State := after (step (s.withFetchWord 32 w))

/-- The packed word returned by that tick. -/
def returned (s : State) (w : Nat) : Option PackedWord := (tick s w).bind fun t => t.rsp.map pack

/-! ### Decoding: words written out from R66 (spec/95_test_vectors.md §2.1 and §3) -/

theorem test_decode_idle : decode 0x1C001234 = .idle true true true 0x1234 0x00 := by decide
theorem test_decode_idle_ignores_p : decode 0x20000000 = .idle false false false 0x0000 0x00 := by decide
theorem test_decode_busConflict : decode 0x03000000 = .busConflict false false false 0x0000 0x00 := by decide
theorem test_decode_busConflict_all : decode 0x1F000000 = .busConflict true true true 0x0000 0x00 := by decide
theorem test_decode_memRead_fetch : decode 0x15004010 = .memRead true 0x4010 0x00 := by decide
theorem test_decode_memRead_high_bits : decode 0xC5000000 = .memRead false 0x0000 0x00 := by decide
theorem test_decode_memWrite : decode 0x09AA8000 = .memWrite false 0x8000 0xAA := by decide
theorem test_decode_memNone : decode 0x11000042 = .memNone true 0x0042 0x00 := by decide
theorem test_decode_memRwConflict : decode 0x1D004000 = .memRwConflict true 0x4000 0x00 := by decide
theorem test_decode_intAck_read : decode 0x16000000 = .intAck true false 0x0000 0x00 := by decide
theorem test_decode_intAck_write : decode 0x1A000080 = .intAck false true 0x0080 0x00 := by decide
theorem test_decode_ioRead : decode 0x0600000A = .ioRead 0x000A 0x00 := by decide
theorem test_decode_ioWrite : decode 0x0A030301 = .ioWrite 0x0301 0x03 := by decide
theorem test_decode_ioNone : decode 0x02000001 = .ioNone 0x0001 0x00 := by decide
theorem test_decode_ioRwConflict : decode 0x0E000001 = .ioRwConflict 0x0001 0x00 := by decide

/-- MWR 0x8000, 0xAA of R75's notation. -/
theorem test_encode_memWrite : encode (.memWrite false 0x8000 0xAA) = 0x09AA8000 := by decide
/-- INTA of R75's notation. -/
theorem test_encode_intAck : encode (.intAck false false 0x0000 0x00) = 0x12000000 := by decide
theorem test_decodeTableWord : decodeTableWord 32 0x0A030301 = some (.ioWrite 0x0301 0x03) := by decide
theorem test_decodeBits_too_wide : decodeBits 40 0x00 = .error (.tooWide 40) := rfl

/-! ### One ill-formed configuration for each check of R9 (spec/95_test_vectors.md §2.7 where it gives one) -/

theorem test_wf_multiBank : Config.multiBank.failedCheck = none := by decide
theorem test_wf_hiBank : hiBankConfig.failedCheck = none := by decide +kernel
theorem test_wf_romFits :
    ({ Config.multiBank with rom := ⟨0xC000, 0x4001⟩ } : Config).failedCheck = some .romFits := by decide
theorem test_wf_ramFits :
    ({ Config.multiBank with ram := ⟨0xFFFF, 2⟩ } : Config).failedCheck = some .ramFits := by decide
theorem test_wf_winFits :
    ({ Config.multiBank with win := ⟨0xC000, 0x8000⟩ } : Config).failedCheck = some .winFits := by decide
theorem test_wf_disjoint :
    ({ Config.multiBank with rom := ⟨0x0000, 0x8000⟩ } : Config).failedCheck = some .disjoint := by decide
theorem test_wf_bankCount :
    ({ Config.multiBank with bankCount := 257 } : Config).failedCheck = some .bankCount := by decide
theorem test_wf_maskPow2 :
    ({ Config.multiBank with bankCount := 3 } : Config).failedCheck = some .maskPow2 := by decide
theorem test_wf_devMapRange :
    ({ Config.multiBank with deviceMap := [(8, .terminal)] } : Config).failedCheck = some .devMapRange := by decide
theorem test_wf_lcdPair :
    ({ Config.multiBank with deviceMap := [(2, .lcd)] } : Config).failedCheck = some .lcdPair := by decide
theorem test_wf_lcdSubBit :
    ({ Config.multiBank with lcdSubBit := 3 } : Config).failedCheck = some .lcdPair := by decide
theorem test_wf_hiBankBit :
    ({ hiBankConfig with hiBankBit := 6 } : Config).failedCheck = some .hiBankBit := by decide +kernel

/-! ### Operands (spec/95_test_vectors.md §2.4, §2.5) -/

theorem test_devId_low3 : (Config.multiBank.devId 0x00FF, Config.multiBank.devId 0x1234) = (7, 4) := by decide
theorem test_devId_low7 : (lowSevenConfig.devId 0x00FF, hiBankConfig.devId 0xFF81) = (0x7F, 0x01) := by decide
theorem test_hiBank : (hiBankConfig.hiBank 0x0080, hiBankConfig.hiBank 0x8003, lowSevenConfig.hiBank 0x0080) =
    (true, false, false) := by decide
theorem test_legalize_mask : [0, 3, 4, 5, 0xFF].map Config.multiBank.legalize = [0, 3, 0, 1, 3] := by decide
theorem test_legalize_clamp : [0, 3, 4, 5, 0xFF].map clampConfig.legalize = [0, 3, 3, 3, 3] := by decide
theorem test_legalize_one_bank : [0, 1, 0xFF].map Config.singleBank.legalize = [0, 0, 0] := by decide

/-! ### One step of each instruction (spec/95_test_vectors.md §2.2 to §2.6) -/

theorem test_idle_shows_pending : returned busy 0x00000000 = some 0x20000000 := by decide
theorem test_idle_ignores_p : returned State.reset 0x20000000 = some 0x00000000 := by decide
theorem test_busConflict : (tick busy 0x03000000).map (fun t => (t.fault, t.bank, t.pending, t.trace)) =
    some (some .busConflict, 1, true, []) := by decide
theorem test_faulted_has_no_step :
    step { busy with fault := some .busConflict } = .fault (.faulted .busConflict) := rfl
theorem test_memRead_rom : returned State.reset 0x05003FFF = some 0x05003FFF := by decide
theorem test_memRead_ram : returned busy 0x05004000 = some 0x255A4000 := by decide
theorem test_memWrite_ram_top : (tick State.reset 0x09A57FFF).map (fun t => (t.ram, t.rsp.map pack)) =
    some ([(0x3FFF, 0xA5)], some 0x09A57FFF) := by decide
theorem test_memWrite_window_top : (tick { State.reset with bank := 3 } 0x0977FFFF).map (·.banks) =
    some [[], [], [], [(0x7FFF, 0x77)]] := by decide
theorem test_memNone : returned State.reset 0x11000042 = some 0x11000042 := by decide
theorem test_memRwConflict : (tick busy 0x0D004000).map (fun t => (t.fault, t.ram)) =
    some (some .memRwConflict, [(0, 0x5A)]) := by decide
theorem test_intAck : (tick busy 0x16000000).map (fun t => (t.pending, t.kbd, t.rsp.map pack)) =
    some (false, 0x61, some 0x16FF0000) := by decide
theorem test_intAck_no_bank_side_effect :
    (tick { resetWith hiBankConfig with pending := true } 0x1A020080).map (fun t => (t.bank, t.pending, t.rsp.map pack)) =
      some (0, false, some 0x1AFF0080) := by decide
theorem test_ioRead_terminal_clears :
    (tick { resetWith clearsConfig with kbd := 0x41, pending := true } 0x06000000).map (fun t => (t.kbd, t.rsp.map pack)) =
      some (0x00, some 0x26410000) := by decide
theorem test_ioRead_bankSel : (tick busy 0x06000001).map (fun t => (t.bank, t.kbd, t.rsp.map pack)) =
    some (1, 0x61, some 0x26000001) := by decide
/-- The byte read is the draw that TRACE records; identifier 2 is reached by aliasing. -/
theorem test_ioRead_lcd : ∃ b : Byte, (tick State.reset 0x0600000A).map (fun t => (t.trace, t.rsp.map (·.data))) =
    some ([.lcdRead .command b], some b) := ⟨_, rfl⟩
/-- Step 1 of program P5: the side effect and the terminal's own write. -/
theorem test_ioWrite_hiBank : (tick (resetWith hiBankConfig) 0x0A070080).map (fun t => (t.bank, t.trace, t.rsp.map pack)) =
    some (3, [.termOut 0x07], some 0x0A070080) := by decide
theorem test_ioWrite_lcdData : (tick State.reset 0x0A480003).map (fun t => (t.bank, t.trace)) =
    some (0, [.lcdData 0x48]) := by decide
theorem test_ioNone : (tick busy 0x02000001).map (fun t => (t.bank, t.rsp.map pack)) = some (1, some 0x22000001) := by
  decide
theorem test_ioRwConflict : (tick busy 0x0E000001).map (·.fault) = some (some .ioRwConflict) := by decide

/-- R137: a key press, and the keys' overwriting of R172. -/
theorem test_host_key : (after (takeHostEvent (.key 0x42) { State.reset with kbd := 0x41 })).map
    (fun t => (t.kbd, t.pending)) = some (0x42, true) := by decide
/-- R138: after H_STOP no service happens. -/
theorem test_stopped_stays : (tick { busy with running := false } 0x12000000).map (·.pending) = some true := by decide

/-- The image is longer than ROM (spec/95_test_vectors.md §2.3's case, on a ROM of two bytes). -/
theorem test_loadImage_truncates : loadImage 2 [0x00, 0x11, 0x22] = [(1, 0x11)] := by decide
/-- Writing what an unlisted index reads as removes the entry. -/
theorem test_write_zero_removes : Memory.write [(1, 0x11), (3, 0x33)] 3 0x00 = [(1, 0x11)] := by decide

/-! ### Witnesses: a concrete state and operands for the hypotheses of each statement, at the boundaries of each clause -/

/-- `busy` with inputs to come. -/
def busyWith (inputs : List Input) : State := { busy with inputs := inputs }

theorem busy_inv : busy.Inv where
  config_wf    := by decide
  rom_wf       := by decide
  rom_within   := by decide
  ram_wf       := by decide
  ram_within   := by decide
  banks_count  := by decide
  banks_wf     := by decide
  banks_within := by decide
  bank_lt      := by decide
  vector_eq    := by decide

theorem busyWith_inv (inputs : List Input) : (busyWith inputs).Inv where
  config_wf    := busy_inv.config_wf
  rom_wf       := busy_inv.rom_wf
  rom_within   := busy_inv.rom_within
  ram_wf       := busy_inv.ram_wf
  ram_within   := busy_inv.ram_within
  banks_count  := busy_inv.banks_count
  banks_wf     := busy_inv.banks_wf
  banks_within := busy_inv.banks_within
  bank_lt      := busy_inv.bank_lt
  vector_eq    := busy_inv.vector_eq

/-- A state of the configuration with holes. -/
def holesState : State := { resetWith Config.holes with ram := [(0x1FFF, 0x66)], bank := 3 }

theorem holesState_inv : holesState.Inv where
  config_wf    := by decide
  rom_wf       := by decide
  rom_within   := by decide
  ram_wf       := by decide
  ram_within   := by decide
  banks_count  := by decide
  banks_wf     := by decide
  banks_within := by decide
  bank_lt      := by decide
  vector_eq    := by decide

theorem test_witness_StepRunsTheDecodedDescriptor :
    (busyWith []).fault = none ∧ (busyWith []).running = true ∧ (busyWith []).inputs = [] ∧
    (busyWith [.host .stop]).inputs = .host .stop :: [] ∧
    (busyWith [.tick (unpack 0x05004000), .host .raise]).inputs =
      .tick (unpack 0x05004000) :: [.host .raise] := by decide

theorem test_witness_IdleDrivesOnlyTheInterruptLine :
    (unpack 0x1C001234).isMemoryCycle = false ∧ (unpack 0x1C001234).isIoCycle = false ∧ busy.fault = none := by decide

theorem test_witness_ReservedKindsSetOnlyFault :
    ((unpack 0x1F000000).isMemoryCycle = true ∧ (unpack 0x1F000000).isIoCycle = true) ∧
    ((unpack 0x1D004000).isMemoryCycle = true ∧ (unpack 0x1D004000).isIoCycle = false ∧
      (unpack 0x1D004000).isRead = true ∧ (unpack 0x1D004000).isWrite = true) ∧
    ((unpack 0x0E000001).isMemoryCycle = false ∧ (unpack 0x0E000001).isIoCycle = true ∧
      (unpack 0x0E000001).isInterruptAck = false ∧ (unpack 0x0E000001).isRead = true ∧
      (unpack 0x0E000001).isWrite = true) ∧ busy.fault = none := by decide

theorem test_witness_FaultedStateHasNoNextStep :
    { busy with fault := some .busConflict }.fault = some .busConflict ∧
    { busy with fault := some .memRwConflict }.fault = some .memRwConflict ∧
    { busy with fault := some .ioRwConflict }.fault = some .ioRwConflict := by decide

theorem test_witness_EveryServiceCompletes : busy.fault = none := by decide

/-- The first and last address of each region, the holes' edges, and an empty region of each kind. -/
theorem test_witness_RegionDecodeFollowsTheMap :
    Config.holes.wellFormed = true ∧
    [0x0000, 0x1FFF, 0x2000, 0x3FFF, 0x4000, 0x5FFF, 0x6000, 0x7FFF, 0x8000, 0xBFFF, 0xC000, 0xFFFF].map
      Config.holes.region =
      [.rom, .rom, .unmapped, .unmapped, .ram, .ram, .unmapped, .unmapped, .win, .win, .unmapped, .unmapped] ∧
    ({ Config.holes with rom := ⟨0x0000, 0⟩ } : Config).rom.size = 0 ∧
    ({ Config.holes with ram := ⟨0x4000, 0⟩ } : Config).ram.size = 0 ∧ Config.flat.win.size = 0 := by decide

theorem test_witness_MemReadReturnsTheMappedByte :
    ((unpack 0x15004010).isMemoryCycle = true ∧ (unpack 0x15004010).isIoCycle = false ∧
      (unpack 0x15004010).isRead = true ∧ (unpack 0x15004010).isWrite = false) ∧
    holesState.fault = none ∧ holesState.config.region 0x1FFF = .rom ∧ holesState.config.region 0x5FFF = .ram ∧
    holesState.config.region 0x8000 = .win ∧ holesState.config.region 0x2000 = .unmapped := by decide

theorem test_witness_MemWriteStoresOrIsDiscarded :
    ((unpack 0x19AA8000).isMemoryCycle = true ∧ (unpack 0x19AA8000).isIoCycle = false ∧
      (unpack 0x19AA8000).isRead = false ∧ (unpack 0x19AA8000).isWrite = true) ∧
    holesState.Inv ∧ holesState.fault = none ∧ holesState.config.region 0x0000 = .rom ∧
    holesState.config.region 0xFFFF = .unmapped ∧ holesState.config.region 0x4000 = .ram ∧
    holesState.config.region 0xBFFF = .win ∧ holesState.memRead 0xBFFF = 0x00 ∧
    ∃ t u, exec (.memWrite true 0x4000 0x77) holesState = .next t ∧
      exec (.memWrite true 0xBFFF 0x77) holesState = .next u :=
  ⟨by decide, holesState_inv, by decide, by decide, by decide, by decide, by decide, by decide, _, _, rfl, rfl⟩

theorem test_witness_MemWriteChangesOnlyItsCell :
    holesState.Inv ∧ holesState.fault = none ∧ holesState.cellOf 0x1FFF = some (.rom 0x1FFF) ∧
    holesState.cellOf 0x5FFF = some (.ram 0x1FFF) ∧ holesState.cellOf 0x8000 = some (.bank 3 0) ∧
    holesState.cellOf 0x8000 ≠ some (.bank 2 0) ∧ holesState.cellOf 0x2000 ≠ some (.ram 0) :=
  ⟨holesState_inv, by decide⟩

theorem test_witness_CyclesWithNeitherReadNorWriteAccessNothing :
    ((unpack 0x11000042).isMemoryCycle = true ∧ (unpack 0x11000042).isIoCycle = false ∧
      (unpack 0x11000042).isRead = false ∧ (unpack 0x11000042).isWrite = false) ∧
    ((unpack 0x02000001).isMemoryCycle = false ∧ (unpack 0x02000001).isIoCycle = true ∧
      (unpack 0x02000001).isInterruptAck = false ∧ (unpack 0x02000001).isRead = false ∧
      (unpack 0x02000001).isWrite = false) ∧ busy.fault = none := by decide

theorem test_witness_ReadAfterWriteOfTheSameAddress :
    holesState.Inv ∧ holesState.fault = none ∧ holesState.config.region 0x4000 = .ram ∧
    holesState.config.region 0xBFFF = .win ∧ holesState.config.region 0x1FFF = .rom ∧
    holesState.config.region 0xC000 = .unmapped := ⟨holesState_inv, by decide⟩

theorem test_witness_MemoryCyclesTouchNoIoState :
    (Instr.memWrite true 0x7FFF 0xA5).request.isMemoryCycle = true ∧
    (Instr.memRwConflict true 0x7FFF 0xA5).request.isMemoryCycle = true ∧
    ∃ t u, exec (.memWrite true 0x7FFF 0xA5) busy = .next t ∧ t.fault = none ∧
      exec (.memRwConflict true 0x7FFF 0xA5) busy = .next u ∧ u.fault ≠ none :=
  ⟨rfl, rfl, _, _, rfl, rfl, rfl, by decide⟩

theorem test_witness_RomIsNeverMutatedAfterLoad :
    (∃ t, State.construct Config.multiBank (some [0xC3, 0x00, 0x01]) 0xFF = .ok t) ∧
    (∃ t, Host.Core.run Sys2Proof.core 2
      (busyWith [.tick (unpack 0x09120000), .tick (unpack 0x05000000)]) = .next t) ∧
    busy.fault = none ∧ busy.config.region 0x0000 = .rom ∧ busy.config.region 0x3FFF = .rom :=
  ⟨⟨_, rfl⟩, ⟨_, rfl⟩, by decide⟩

/-- Bank 1 is active; 5 selects bank 1 under MASK with four banks, and 2 selects bank 2. -/
theorem test_witness_BankIsolationAndPersistence :
    let s := busyWith [.tick (Instr.memWrite false 0x8123 0xC3).request, .tick (Instr.ioWrite 0x0009 2).request,
      .tick (Instr.memRead true 0x8123 0).request, .tick (Instr.ioWrite 0x0009 5).request,
      .tick (Instr.memRead false 0x8123 0).request, .host .stop]
    s.Inv ∧ s.fault = none ∧ s.running = true ∧ s.config.region 0x8123 = .win ∧
    s.config.device (s.config.devId 0x0009) = some .bankSel ∧ s.config.legalize 5 = s.bank ∧
    s.config.legalize 2 ≠ s.bank ∧
    s.inputs = .tick (Instr.memWrite false 0x8123 0xC3).request :: .tick (Instr.ioWrite 0x0009 2).request ::
      .tick (Instr.memRead true 0x8123 0).request :: .tick (Instr.ioWrite 0x0009 5).request ::
      .tick (Instr.memRead false 0x8123 0).request :: [.host .stop] :=
  ⟨busyWith_inv _, by decide⟩

theorem test_witness_EveryCellHoldsItsMostRecentWrite :
    (busyWith [.tick (unpack 0x093C8123), .host .raise]).Inv ∧
    ∃ t, Host.Core.run Sys2Proof.core 2 (busyWith [.tick (unpack 0x093C8123), .host .raise]) = .next t :=
  ⟨busyWith_inv _, _, rfl⟩

theorem test_witness_LegalizeIsInRangeAndKeepsLegalValues :
    Config.multiBank.wellFormed = true ∧ clampConfig.wellFormed = true ∧ Config.singleBank.wellFormed = true ∧
    (3 : Byte).toNat < Config.multiBank.bankCount ∧ Config.singleBank.bankCount = 1 ∧
    Config.multiBank.bankPolicy = .mask ∧ clampConfig.bankPolicy = .clamp ∧
    clampConfig.bankCount ≤ (4 : Byte).toNat := by decide

theorem test_witness_BankSelectWriteSetsBank :
    busy.fault = none ∧ busy.config.device (busy.config.devId 0xFFF9) = some .bankSel ∧
    Config.multiBank.bankCount = 4 ∧ Config.multiBank.bankPolicy = .mask ∧ clampConfig.bankCount = 4 ∧
    clampConfig.bankPolicy = .clamp ∧ Config.singleBank.bankCount = 1 := by decide

theorem test_witness_BankSelectReadReturnsTheSentinel :
    busy.fault = none ∧ busy.config.device (busy.config.devId 0x0001) = some .bankSel := by decide

theorem test_witness_TerminalWriteEmitsTheByte :
    busy.fault = none ∧ busy.config.hiBank 0x4100 = false ∧
    busy.config.device (busy.config.devId 0x4100) = some .terminal ∧
    (resetWith hiBankConfig).config.device ((resetWith hiBankConfig).config.devId 0x0080) = some .terminal := by decide

theorem test_witness_UnregisteredIdentifiersReadZeroAndIgnoreWrites :
    busy.fault = none ∧ busy.config.device (busy.config.devId 0x0004) = none ∧
    busy.config.device (busy.config.devId 0xFFFF) = none ∧ busy.config.hiBank 0xFFFF = false ∧
    (resetWith hiBankConfig).config.device ((resetWith hiBankConfig).config.devId 0x0008) = none ∧
    (resetWith hiBankConfig).config.hiBank 0x0008 = false := by decide

theorem test_witness_IoReadServesItsDeviceAlone :
    ((unpack 0x06001234).isMemoryCycle = false ∧ (unpack 0x06001234).isIoCycle = true ∧
      (unpack 0x06001234).isInterruptAck = false ∧ (unpack 0x06001234).isRead = true ∧
      (unpack 0x06001234).isWrite = false) ∧ busy.fault = none ∧
    busy.config.device (busy.config.devId 0x0008) = some .terminal ∧
    busy.config.device (busy.config.devId 0x0001) = some .bankSel ∧
    busy.config.device (busy.config.devId 0x0007) = none ∧
    busy.config.device (busy.config.devId 0x000A) = some .lcd ∧
    busy.config.device (busy.config.devId 0x0003) = some .lcd := by decide

theorem test_witness_IoWriteServesItsDeviceAlone :
    let s := resetWith hiBankConfig
    ((unpack 0x0A070080).isMemoryCycle = false ∧ (unpack 0x0A070080).isIoCycle = true ∧
      (unpack 0x0A070080).isInterruptAck = false ∧ (unpack 0x0A070080).isRead = false ∧
      (unpack 0x0A070080).isWrite = true) ∧ s.fault = none ∧
    (s.config.devIdPolicy = .low7HiBank ∧ (0x0080 : Addr).getLsbD s.config.hiBankBit = true) ∧
    s.config.device (s.config.devId 0x0080) = some .terminal ∧
    s.config.device (s.config.devId 0x0081) = some .bankSel ∧
    s.config.device (s.config.devId 0x0082) = some .lcd ∧ s.config.device (s.config.devId 0x0003) = some .lcd ∧
    s.config.device (s.config.devId 0x0085) = none ∧ s.config.device (s.config.devId 0x007F) = none := by decide

theorem test_witness_PortsAliasOnTheIdentifierBits :
    busy.fault = none ∧
    (∀ j, j < busy.config.devIdPolicy.width → (0x0009 : Addr).getLsbD j = (0xFFF9 : Addr).getLsbD j) ∧
    busy.config.hiBank 0x0009 = busy.config.hiBank 0xFFF9 ∧
    (∀ j, j < hiBankConfig.devIdPolicy.width → (0x0180 : Addr).getLsbD j = (0x0280 : Addr).getLsbD j) ∧
    hiBankConfig.hiBank 0x0180 = hiBankConfig.hiBank 0x0280 := by decide

theorem test_witness_BankChangesOnlyThroughItsDocumentedWrite :
    (∃ t, step (busyWith [.tick (unpack 0x0A020001)]) = .next t ∧ t.bank ≠ (busyWith [.tick (unpack 0x0A020001)]).bank) ∧
    ∃ t, step ((resetWith hiBankConfig).withFetchWord 32 0x0A020085) = .next t ∧ t.bank ≠ (resetWith hiBankConfig).bank :=
  ⟨⟨_, rfl, by decide⟩, _, rfl, by decide⟩

theorem test_witness_TraceGainsAtMostTheSelectedDevicesEvent :
    ∃ t u, step (busyWith [.tick (unpack 0x0A410000)]) = .next t ∧ t.trace = [.termOut 0x41] ∧
      step (busyWith [.tick (unpack 0x06000003)]) = .next u := ⟨_, _, rfl, rfl, rfl⟩

theorem test_witness_IntAckReturnsTheVectorAndClearsPending :
    (unpack 0x1EFF0080).isMemoryCycle = false ∧ (unpack 0x1EFF0080).isIoCycle = true ∧
    (unpack 0x1EFF0080).isInterruptAck = true ∧ busy.fault = none ∧ busy.pending = true ∧
    State.reset.fault = none ∧ State.reset.pending = false := by decide

theorem test_witness_OnlyTheAcknowledgeClearsPending :
    ∃ t, step (busyWith [.tick (unpack 0x12000000)]) = .next t ∧ (busyWith [.tick (unpack 0x12000000)]).pending = true ∧
      t.pending = false := ⟨_, rfl, rfl, rfl⟩

theorem test_witness_RaiseSetsPendingAndNothingElse :
    State.reset.fault = none ∧
    ∃ t, exec (.ioNone 0x0001 0x00) { State.reset with pending := true } = .next t ∧ t.fault = none ∧
      (Instr.ioNone 0x0001 0x00).kind ≠ .intAck := ⟨rfl, _, rfl, rfl, by decide⟩

theorem test_witness_EveryAnswerShowsThePendingLevel :
    ∃ t u, exec (.memRead true 0x4000 0x00) busy = .next t ∧ t.fault = none ∧
      exec (.intAck false false 0x0000 0x00) busy = .next u ∧ u.fault = none := ⟨_, _, rfl, rfl, rfl, rfl⟩

theorem test_witness_AnswersKeepTheAddressAndControlBits :
    ∃ t u, exec (decodeRequest (unpack 0x3FFF1234)) busy = .next u ∧ u.fault ≠ none ∧
      exec (decodeRequest (unpack 0x3CFF1234)) busy = .next t ∧ t.fault = none ∧
      (decodeRequest (unpack 0x3CFF1234)).kind ≠ .memRead ∧ (decodeRequest (unpack 0x3CFF1234)).kind ≠ .ioRead ∧
      (decodeRequest (unpack 0x3CFF1234)).kind ≠ .intAck :=
  ⟨_, _, rfl, by decide, rfl, rfl, by decide⟩

theorem test_witness_RaisesMergeAndOneAcknowledgeClearsThem :
    let s := { State.reset with inputs := [.host .raise, .host .raise, .tick (Instr.intAck true false 0x0080 0xFF).request,
      .tick (Instr.intAck false false 0x0000 0x00).request, .host .stop] }
    s.fault = none ∧ s.running = true ∧
    s.inputs = .host .raise :: .host .raise :: .tick (Instr.intAck true false 0x0080 0xFF).request ::
      .tick (Instr.intAck false false 0x0000 0x00).request :: [.host .stop] := by decide

theorem test_witness_HostEventsTouchOnlyPendingAndKbd : busy.fault = none ∧ busy.pending = true := by decide

theorem test_witness_StopEndsTheRunAndKeepsTheState :
    let s := busyWith [.host .stop, .tick (unpack 0x12000000)]
    s.fault = none ∧ s.running = true ∧ s.inputs = .host .stop :: [.tick (unpack 0x12000000)] := by decide

theorem test_witness_ConstructionGivesTheResetValues :
    ({ Config.multiBank with bankCount := 0 } : Config).wellFormed = false ∧
    ({ Config.multiBank with bankCount := 257 } : Config).wellFormed = false ∧ Config.multiBank.wellFormed = true ∧
    Config.flat.wellFormed = true := by decide

/-- Offset 0 is in the image, 1 and 2 are ROM past the image, 2 is ROM's last byte, 3 is past ROM. -/
theorem test_witness_RomImageIsPaddedOrTruncated :
    let c : Config := { Config.multiBank with rom := ⟨0x0100, 3⟩ }
    (∃ t, State.construct c (some [0xC3]) 0x00 = .ok t) ∧ (∃ t, State.construct c (some []) 0x00 = .ok t) ∧
    (∃ t, State.construct c (some [1, 2, 3, 4]) 0x00 = .ok t) ∧ 0 < c.rom.size ∧ 2 < c.rom.size ∧ c.rom.size ≤ 3 ∧
    c.region 0x0100 = .rom ∧ c.region 0x0102 = .rom :=
  ⟨⟨_, rfl⟩, ⟨_, rfl⟩, ⟨_, rfl⟩, by decide⟩

theorem test_witness_ConstructedBlockBootsWithNoSetUp :
    (∃ s, State.construct Config.multiBank (some [0xC3, 0x00, 0x01]) 0xFF = .ok s) ∧
    (∃ s, State.construct Config.holes (some []) 0x00 = .ok s) ∧ Config.multiBank.region 0x3FFF = .rom ∧
    Config.multiBank.region 0x4000 ≠ .rom ∧ Config.holes.region 0x2000 ≠ .rom ∧ Config.multiBank.region 0x8000 = .win ∧
    Config.multiBank.region 0xFFFF = .win ∧
    Config.multiBank.device (Config.multiBank.devId 0x0008) = some .terminal :=
  ⟨⟨_, rfl⟩, ⟨_, rfl⟩, by decide⟩

theorem test_witness_EveryStepKeepsTheInvariant :
    (busyWith [.tick (unpack 0x09007FFF)]).Inv ∧ ∃ t, step (busyWith [.tick (unpack 0x09007FFF)]) = .next t :=
  ⟨busyWith_inv _, _, rfl⟩

theorem test_witness_ConstructionConstantsNeverChange :
    ∃ t, Host.Core.run Sys2Proof.core 2 (busyWith [.tick (unpack 0x0A020001), .host (.key 0x42)]) = .next t := ⟨_, rfl⟩

theorem test_witness_KbdAndPendingShowOnlyWhereTheSpecSays :
    busy.fault = none ∧
    (∀ a d, Instr.ioRead 0x0001 0x00 = .ioRead a d → busy.config.device (busy.config.devId a) ≠ some .terminal) ∧
    ∃ t u, exec (.ioRead 0x0000 0x00) busy = .next t ∧ t.fault = none ∧
      exec (.ioRwConflict 0x0001 0x00) busy = .next u ∧ u.fault ≠ none :=
  ⟨rfl, fun _ _ h => by cases h; decide, _, _, rfl, rfl, rfl, by decide⟩

theorem test_witness_OnlyAnLcdReadDependsOnTheOutside :
    busy.fault = none ∧
    (∀ a d, Instr.ioRead 0x0000 0x00 = .ioRead a d → busy.config.device (busy.config.devId a) ≠ some .lcd) ∧
    ∀ a d, Instr.ioWrite 0x0002 0x01 = .ioRead a d → busy.config.device (busy.config.devId a) ≠ some .lcd :=
  ⟨rfl, fun _ _ h => by cases h; decide, fun _ _ h => by cases h⟩

end Sys2Proof.Tests
end

section
/-! PROOFS. ROM after construction (R29): every named operation leaves the ROM array alone, so every service, every host
event, every step and every run does; and a write to a ROM address is discarded. -/

namespace Sys2Proof.Machine

/-! ### What a whole run keeps -/

/-- The induction over a run, once: a function of the state that every step keeps is kept by every run. -/
theorem run_keeps {α : Type} {f : State → α} (hstep : ∀ s t : State, step s = .next t → f t = f s) {n : Nat}
    {s t : State} (h : Host.Core.run Sys2Proof.core n s = .next t) : f t = f s := by
  induction n generalizing s with
  | zero =>
    cases h
    rfl
  | succ n ih =>
    obtain ⟨u, hu, ht⟩ := run_succ_eq_next h
    exact (ih ht).trans (hstep s u hu)

/-! ### ROM through a step -/

@[simp] theorem State.nextInput_rom (s : State) : s.nextInput.2.rom = s.rom := by
  obtain ⟨l, n, hs⟩ := s.nextInput_state
  rw [hs]

/-- No service writes ROM: the only kinds that touch more than the answer are a memory write, which changes RAM or a
bank (R43), an acknowledge, which changes PENDING (R130), and the two kinds that call a device handler. -/
@[simp] theorem effect_rom (i : Instr) (s : State) : (effect i s).rom = s.rom := by
  cases i with
  | memWrite k a d => exact s.memWrite_rom a d
  | ioRead a d => exact s.deviceRead_rom a
  | ioWrite a d => exact ((s.hiBankWrite a d).deviceWrite_rom a d).trans (s.hiBankWrite_rom a d)
  | intAck => exact s.clearInterrupt_rom
  | idle | memRead | memNone | ioNone => exact s.respond_rom _
  | busConflict | memRwConflict | ioRwConflict => exact s.raiseFault_rom _

@[simp] theorem State.hostEvent_rom (s : State) (e : HostEvent) : (s.hostEvent e).rom = s.rom := by
  cases e with
  | raise => exact s.raiseInterrupt_rom
  | key b => exact s.hostKey_rom b
  | stop => exact s.hostStop_rom
  | refresh | delay | cpuReset => rfl

/-- No step writes ROM (R29). -/
theorem step_rom {s t : State} (h : step s = .next t) : t.rom = s.rom := by
  have hin := s.nextInput_rom
  obtain ⟨-, ⟨-, rfl⟩ | ⟨-, req, s', hn, he⟩ | ⟨-, e, s', hn, he⟩⟩ := step_cases h
  · rfl
  · obtain ⟨-, rfl⟩ := exec_eq_next.1 he
    rw [hn] at hin
    exact (effect_rom _ s').trans hin
  · obtain ⟨-, rfl⟩ := takeHostEvent_eq_next.1 he
    rw [hn] at hin
    exact (s'.hostEvent_rom e).trans hin

/-! ### A write to a ROM address -/

/-- A memory write to a ROM address has no effect (R43). -/
theorem State.memWrite_of_rom {s : State} {a : Addr} (h : s.config.region a = .rom) (v : Byte) :
    s.memWrite a v = s := by
  obtain ⟨-, hw⟩ | ⟨hr, -⟩ | ⟨hr, -⟩ := s.memWrite_cases a v
  · exact hw
  · simp [h] at hr
  · simp [h] at hr

/-- A MEM_WRITE to a ROM address only returns its descriptor (R43, R98). -/
theorem effect_memWrite_of_rom {s : State} {a : Addr} (h : s.config.region a = .rom) (k : Bool) (v : Byte) :
    effect (.memWrite k a v) s = s.respond (Instr.memWrite k a v).request :=
  congrArg (fun u : State => u.respond (Instr.memWrite k a v).request) (State.memWrite_of_rom h v)

/-- Settles O16: construction loads the image within ROM_SIZE, a run keeps ROM because every step does, and a write to a
ROM address leaves only its answer. -/
theorem romIsNeverMutatedAfterLoad : Obligations.RomIsNeverMutatedAfterLoad := by
  refine ⟨fun c bytes kbd t h => ?_, fun n s t => run_keeps fun _ _ => step_rom, fun k a v s hf hr => ?_⟩
  · obtain ⟨-, _, ⟨⟩, rfl⟩ := State.construct_eq_ok h
    exact ⟨rfl, loadImage_within _ _⟩
  · refine ⟨s.pending, ?_⟩
    rw [exec_of_none _ hf, effect_memWrite_of_rom hr]
    rfl

end Sys2Proof.Machine
end

section
/-! PROOFS. The region decoder (R41): which answer the ordered tests give, that an empty region is never the answer, and
that R9's WF_DISJOINT makes the order of the tests irrelevant. -/

namespace Sys2Proof

/-! ### Address ranges -/

/-- A region of size 0 contains no address (R41). -/
theorem Span.not_contains_of_size_eq_zero {r : Span} (h : r.size = 0) (a : Addr) : ¬ r.contains a := by
  rintro ⟨hbase, hend⟩
  omega

/-- What WF_DISJOINT says of one address (R9): it is not in both regions. -/
theorem Span.apart.not_contains {r q : Span} {a : Addr} (h : r.apart q) (hr : r.contains a) : ¬ q.contains a := by
  rintro ⟨qbase, qend⟩
  obtain ⟨rbase, rend⟩ := hr
  obtain hempty | hempty | hbelow | habove := h <;> omega

/-! ### What admission gives -/

/-- An admitted configuration passes each named check (R9). -/
theorem Config.passes_of_wellFormed {c : Config} (h : c.wellFormed = true) (k : WfCheck) : c.passes k = true :=
  List.all_eq_true.1 h k (by cases k <;> decide)

/-- The regions of an admitted configuration are pairwise disjoint (R9, WF_DISJOINT). -/
theorem Config.apart_of_wellFormed {c : Config} (h : c.wellFormed = true) :
    c.rom.apart c.ram ∧ c.rom.apart c.win ∧ c.ram.apart c.win :=
  of_decide_eq_true (Config.passes_of_wellFormed h .disjoint)

/-! ### The decoder's answers -/

/-- ROM is tested first. -/
theorem Config.region_eq_rom_iff {c : Config} {a : Addr} : c.region a = .rom ↔ c.rom.contains a :=
  ⟨Config.contains_of_region.1, fun h => if_pos h⟩

/-- RAM is tested second, so it answers for its own addresses outside ROM. -/
theorem Config.region_eq_ram_iff {c : Config} {a : Addr} (hrom : c.ram.contains a → ¬ c.rom.contains a) :
    c.region a = .ram ↔ c.ram.contains a :=
  ⟨Config.contains_of_region.2.1, fun h => (if_neg (hrom h)).trans (if_pos h)⟩

/-- The window is tested last, so it answers for its own addresses outside ROM and RAM. -/
theorem Config.region_eq_win_iff {c : Config} {a : Addr} (hrom : c.win.contains a → ¬ c.rom.contains a)
    (hram : c.win.contains a → ¬ c.ram.contains a) : c.region a = .win ↔ c.win.contains a :=
  ⟨Config.contains_of_region.2.2, fun h => (if_neg (hrom h)).trans ((if_neg (hram h)).trans (if_pos h))⟩

/-- Settles O9: the ordered tests are the decoder's definition, an answer's range contains the address, and in an
admitted map an address of a later region is in no earlier one. -/
theorem regionDecodeFollowsTheMap : Obligations.RegionDecodeFollowsTheMap := by
  intro c a
  obtain ⟨rom_of, ram_of, win_of⟩ := Config.contains_of_region (c := c) (a := a)
  refine ⟨rfl, fun h hr => Span.not_contains_of_size_eq_zero h a (rom_of hr),
    fun h hr => Span.not_contains_of_size_eq_zero h a (ram_of hr),
    fun h hr => Span.not_contains_of_size_eq_zero h a (win_of hr), fun hwf => ?_⟩
  obtain ⟨rom_ram, rom_win, ram_win⟩ := Config.apart_of_wellFormed hwf
  exact ⟨Config.region_eq_rom_iff,
    Config.region_eq_ram_iff fun hram hrom => rom_ram.not_contains hrom hram,
    Config.region_eq_win_iff (fun hwin hrom => rom_win.not_contains hrom hwin)
      fun hwin hram => ram_win.not_contains hram hwin⟩

end Sys2Proof
end

section
/-! PROOFS. The returned descriptor (R85, R92): decoding loses no field of a request but interruptPending, and a service
answers with the descriptor of its instruction, its data replaced by the reading kinds alone. -/

namespace Sys2Proof

/-- Decoding keeps every field of a request but the ignored interruptPending bit (R67, R73): the operands of a kind are
the fields its tests leave open, along the tests of R67. -/
theorem request_decodeRequest (req : BusRequest) :
    (decodeRequest req).request = { req with interruptPending := false } := by
  obtain ⟨a, d, m, i, r, w, k, p⟩ := req
  cases m with
  | true =>
    cases i with
    | true => rfl
    | false => cases r <;> cases w <;> rfl
  | false =>
    cases i with
    | false => rfl
    | true =>
      cases k with
      | true => rfl
      | false => cases r <;> cases w <;> rfl

end Sys2Proof

namespace Sys2Proof.Machine

/-- The answer of a service that raises no fault: the instruction's descriptor with the level of PENDING after the kind's
rule (R91), and with new data only from the reading kinds (R92). -/
theorem effect_rsp {i : Instr} {s : State} (h : (effect i s).fault = none) :
    ∃ d, (effect i s).rsp = some { i.request with data := d, interruptPending := (effect i s).pending } ∧
      (i.kind ≠ .memRead → i.kind ≠ .ioRead → i.kind ≠ .intAck → d = i.request.data) := by
  cases i with
  | idle | memWrite | memNone | ioWrite | ioNone => exact ⟨_, rfl, fun _ _ _ => rfl⟩
  | memRead => exact ⟨_, rfl, fun hk _ _ => absurd rfl hk⟩
  | ioRead => exact ⟨_, rfl, fun _ hk _ => absurd rfl hk⟩
  | intAck => exact ⟨_, rfl, fun _ _ hk => absurd rfl hk⟩
  | busConflict | memRwConflict | ioRwConflict => cases h

/-- Settles O33: the answer is the descriptor of the decoded instruction with at most its data replaced, and decoding keeps
the request's fields. -/
theorem answersKeepTheAddressAndControlBits : Obligations.AnswersKeepTheAddressAndControlBits := by
  intro req s t hexec hfault
  obtain ⟨-, rfl⟩ := exec_eq_next.1 hexec
  obtain ⟨d, hrsp, hdata⟩ := effect_rsp hfault
  rw [request_decodeRequest] at hrsp hdata
  exact ⟨_, hrsp, rfl, hdata⟩

end Sys2Proof.Machine
end

section
/-! PROOFS. I/O cycles (R105 to R117): the bank a written byte selects (R25), what the read and the write side of each
handler do, the high-bit bank side effect before a write, and the services of IO_READ and IO_WRITE put together from them. -/

namespace Sys2Proof

/-! ### legalize (R25) -/

theorem Config.legalize_of_mask {c : Config} (h : c.bankPolicy = .mask) (v : Byte) :
    c.legalize v = v.toNat &&& (c.bankCount - 1) := by simp only [Config.legalize, h]

theorem Config.legalize_of_clamp {c : Config} (h : c.bankPolicy = .clamp) (v : Byte) :
    c.legalize v = min v.toNat (c.bankCount - 1) := by simp only [Config.legalize, h]

/-- Both policies stay at or below the last index, so where there is a bank the index is in range. The bank count need be
no power of two for that. -/
theorem Config.legalize_lt_bankCount {c : Config} (h : 1 ≤ c.bankCount) (v : Byte) : c.legalize v < c.bankCount := by
  have hle : c.legalize v ≤ c.bankCount - 1 := by
    cases hp : c.bankPolicy with
    | mask => exact (Config.legalize_of_mask hp v).trans_le Nat.and_le_right
    | clamp => exact (Config.legalize_of_clamp hp v).trans_le (Nat.min_le_right _ _)
  omega

theorem Config.legalize_of_bankCount_eq_one {c : Config} (h : c.bankCount = 1) (v : Byte) : c.legalize v = 0 := by
  have hlt := Config.legalize_lt_bankCount h.ge v
  omega

end Sys2Proof

namespace Sys2Proof.Machine

/-! ### The handlers, device by device -/

/-- The bank-select device and an unregistered identifier both read as the sentinel and change nothing (R110, R115). -/
theorem State.deviceRead_eq_sentinel {s : State} {a : Addr}
    (h : s.config.device (s.config.devId a) = some .bankSel ∨ s.config.device (s.config.devId a) = none) :
    s.deviceRead a = (0x00, s) := by
  obtain ⟨hterm, -⟩ | ⟨-, hread⟩ | ⟨hlcd, -⟩ := s.deviceRead_cases a
  · simp [hterm] at h
  · exact hread
  · simp [hlcd] at h

theorem State.deviceWrite_of_bankSel {s : State} {a : Addr}
    (h : s.config.device (s.config.devId a) = some .bankSel) (v : Byte) : s.deviceWrite a v = s.selectBank v := by
  simp only [State.deviceWrite, h, State.bankSelWrite]

theorem State.deviceWrite_of_terminal {s : State} {a : Addr}
    (h : s.config.device (s.config.devId a) = some .terminal) (v : Byte) : s.deviceWrite a v = s.emit (.termOut v) := by
  simp only [State.deviceWrite, h, State.terminalWrite]

theorem State.deviceWrite_of_unregistered {s : State} {a : Addr}
    (h : s.config.device (s.config.devId a) = none) (v : Byte) : s.deviceWrite a v = s := by
  simp only [State.deviceWrite, h, State.unregisteredWrite]

/-! ### The high-bit bank side effect (R117) -/

theorem State.hiBankWrite_of_hiBank_eq_false {s : State} {a : Addr} (h : s.config.hiBank a = false) (v : Byte) :
    s.hiBankWrite a v = s := by simp [State.hiBankWrite, h]

/-- The side effect selects the bank of the same byte, so a bank-select write after it ends in the same state. -/
theorem State.selectBank_hiBankWrite (s : State) (a : Addr) (v : Byte) :
    (s.hiBankWrite a v).selectBank v = s.selectBank v := by
  obtain ⟨-, hw⟩ | ⟨-, hw⟩ := s.hiBankWrite_cases a v
  · rw [hw]
    rfl
  · rw [hw]

/-! ### The services of IO_READ and IO_WRITE -/

/-- An IO_READ that reaches no read handler of its own answers 0x00 and leaves only its answer (R105, R110, R115). -/
theorem exec_ioRead_sentinel {s : State} {a : Addr} (hf : s.fault = none)
    (h : s.config.device (s.config.devId a) = some .bankSel ∨ s.config.device (s.config.devId a) = none) (d : Byte) :
    exec (.ioRead a d) s = .next { s with rsp := some ⟨a, 0x00, false, true, true, false, false, s.pending⟩ } := by
  rw [exec_of_none _ hf]
  simp only [effect, State.deviceRead_eq_sentinel h]
  rfl

/-- An IO_WRITE is its device's write side after the bank side effect, answered by its own descriptor (R106, R117). The
side effect leaves the configuration alone, so the device is the one selected before it. -/
theorem exec_ioWrite_of_deviceWrite {s u : State} {a : Addr} {v : Byte} (hf : s.fault = none)
    (h : (s.hiBankWrite a v).deviceWrite a v = u) :
    exec (.ioWrite a v) s = .next (u.respond (Instr.ioWrite a v).request) := by
  rw [exec_of_none _ hf, effect, h]

/-- Settles O20: the write side selects legalize of the byte, which the side effect before it cannot change, and the
corner values are those of the policy's formula. -/
theorem bankSelectWriteSetsBank : Obligations.BankSelectWriteSetsBank := by
  refine ⟨fun a v s hf hd => ⟨s.pending, ?_⟩, fun c v => ⟨fun h => Config.legalize_lt_bankCount h v,
    fun hn hp => ?_, fun hn hp => ?_, fun h => Config.legalize_of_bankCount_eq_one h v⟩⟩
  · have hw : (s.hiBankWrite a v).deviceWrite a v = s.selectBank v :=
      (State.deviceWrite_of_bankSel (by rwa [State.hiBankWrite_config]) v).trans (s.selectBank_hiBankWrite a v)
    exact exec_ioWrite_of_deviceWrite hf hw
  · simp only [Config.legalize_of_mask hp, hn]
    decide
  · simp only [Config.legalize_of_clamp hp, hn]
    decide

/-- Settles O21: the bank-select device is one of the two that read as the sentinel. -/
theorem bankSelectReadReturnsTheSentinel : Obligations.BankSelectReadReturnsTheSentinel :=
  fun _ d _ hf hd => ⟨_, exec_ioRead_sentinel hf (.inl hd) d⟩

/-- Settles O22: the terminal's write side emits after a side effect that changes BANK alone, and that only at a high-bit
address. -/
theorem terminalWriteEmitsTheByte : Obligations.TerminalWriteEmitsTheByte := by
  intro a v s hf hd
  refine ⟨s.pending, (s.hiBankWrite a v).bank, fun hlow => by rw [State.hiBankWrite_of_hiBank_eq_false hlow], ?_⟩
  have hw := State.deviceWrite_of_terminal (s := s.hiBankWrite a v) (by rwa [State.hiBankWrite_config]) v
  rw [exec_ioWrite_of_deviceWrite hf hw, State.hiBankWrite_eta]
  rfl

/-- Settles O23: an unregistered identifier reads as the sentinel, and a write to it is the bank side effect alone, which
happens only at a high-bit address. -/
theorem unregisteredIdentifiersReadZeroAndIgnoreWrites : Obligations.UnregisteredIdentifiersReadZeroAndIgnoreWrites := by
  intro a v s hf hd
  refine ⟨s.pending, (s.hiBankWrite a v).bank, fun hlow => by rw [State.hiBankWrite_of_hiBank_eq_false hlow],
    exec_ioRead_sentinel hf (.inr hd) v, ?_⟩
  have hw := State.deviceWrite_of_unregistered (s := s.hiBankWrite a v) (by rwa [State.hiBankWrite_config]) v
  rw [exec_ioWrite_of_deviceWrite hf hw, State.hiBankWrite_eta]
  rfl

end Sys2Proof.Machine
end

section
/-! PROOFS. PENDING through a step (R132): of the eleven kinds only the acknowledge clears it, the others leave it as it
is; and no host event clears it. -/

namespace Sys2Proof.Machine

@[simp] theorem State.nextInput_pending (s : State) : s.nextInput.2.pending = s.pending := by
  obtain ⟨l, n, hs⟩ := s.nextInput_state
  rw [hs]

/-- What a service does to PENDING, kind by kind: it is an acknowledge, which clears it (R130), or it leaves it alone,
the conflicts and both sides of every device included (R132). -/
theorem effect_pending_cases (i : Instr) (s : State) :
    ((∃ r w a d, i = .intAck r w a d) ∧ (effect i s).pending = false) ∨ (effect i s).pending = s.pending := by
  cases i with
  | intAck r w a d => exact .inl ⟨⟨r, w, a, d, rfl⟩, s.clearInterrupt_pending⟩
  | memWrite k a d => exact .inr (s.memWrite_pending a d)
  | ioRead a d => exact .inr (s.deviceRead_pending a)
  | ioWrite a d => exact .inr (((s.hiBankWrite a d).deviceWrite_pending a d).trans (s.hiBankWrite_pending a d))
  | idle | memRead | memNone | ioNone => exact .inr (s.respond_pending _)
  | busConflict | memRwConflict | ioRwConflict => exact .inr (s.raiseFault_pending _)

/-- A host event raises PENDING (R136, R137) or leaves it alone (R138 to R140, R168). -/
theorem State.hostEvent_pending_of_pending {s : State} (hp : s.pending = true) (e : HostEvent) :
    (s.hostEvent e).pending = true := by
  cases e with
  | raise => exact s.raiseInterrupt_pending
  | key b => exact s.hostKey_pending b
  | stop => exact s.hostStop_pending.trans hp
  | refresh | delay | cpuReset => exact hp

/-- Settles O30: taking the input keeps PENDING, so a step that loses it did not take a host event or stand stopped, and
of the services only the acknowledge does not leave PENDING as it was. -/
theorem onlyTheAcknowledgeClearsPending : Obligations.OnlyTheAcknowledgeClearsPending := by
  intro s t h hs ht
  have hin : s.nextInput.2.pending = true := s.nextInput_pending.trans hs
  obtain ⟨-, ⟨-, rfl⟩ | ⟨-, req, s', hn, he⟩ | ⟨-, e, s', hn, he⟩⟩ := step_cases h
  · exact absurd (ht.symm.trans hs) Bool.false_ne_true
  · obtain ⟨-, rfl⟩ := exec_eq_next.1 he
    rw [hn] at hin ⊢
    obtain ⟨⟨r, w, a, d, hack⟩, -⟩ | hkept := effect_pending_cases (decodeRequest req) s'
    · exact ⟨req, r, w, a, d, rfl, hack⟩
    · exact absurd (ht.symm.trans (hkept.trans hin)) Bool.false_ne_true
  · obtain ⟨-, rfl⟩ := takeHostEvent_eq_next.1 he
    rw [hn] at hin
    exact absurd (ht.symm.trans (State.hostEvent_pending_of_pending hin e)) Bool.false_ne_true

end Sys2Proof.Machine
end

section
/-! PROOFS. The packed word (R66 to R68): decoding an encoded instruction, encoding a decoded word, and the rows of the
opcode table, which pairwise exclude each other. -/

namespace Sys2Proof

/-! ### The round trip -/

/-- The tests of R67 find the kind whose control bits a descriptor carries, with its operands. -/
theorem decodeRequest_request (i : Instr) : decodeRequest i.request = i := by cases i <;> rfl

theorem decode_encode (i : Instr) : decode (encode i) = i := by
  rw [decode, encode, unpack_pack, decodeRequest_request]

theorem getLsbD_lowBits29 (j : Nat) : (0x1FFFFFFF#32).getLsbD j = decide (j < 29) := by
  rw [show 0x1FFFFFFF#32 = (BitVec.allOnes 29).setWidth 32 by decide, BitVec.getLsbD_setWidth, BitVec.getLsbD_allOnes]
  by_cases h : j < 29
  · simp [h, h.trans (by decide : 29 < 32)]
  · simp [h]

/-- Packing what a word unpacks to, with interruptPending cleared, clears the ignored bits 31:29 (R66, R73): below them
the address, the data and the five control bits tile the word. -/
theorem pack_unpack_clear (w : PackedWord) :
    pack { unpack w with interruptPending := false } = w &&& 0x1FFFFFFF#32 := by
  refine BitVec.eq_of_getLsbD_eq fun j hj => ?_
  rw [getLsbD_pack, BitVec.getLsbD_and, getLsbD_lowBits29]
  simp only [unpack, BitVec.getLsbD_extractLsb', Nat.zero_add, Bool.and_false, Bool.or_false]
  obtain haddr | hdata | hctl | hhigh : j < 16 ∨ (16 ≤ j ∧ j < 24) ∨ (24 ≤ j ∧ j < 29) ∨ 29 ≤ j := by omega
  · have hne : ∀ n, 16 ≤ n → j ≠ n := by omega
    simp [haddr, hne, haddr.trans (by decide : 16 < 29), haddr.not_ge]
  · obtain ⟨hlow, hup⟩ := hdata
    have hne : ∀ n, 24 ≤ n → j ≠ n := by omega
    have hoff : j - 16 < 8 := by omega
    simp [hlow, hlow.not_gt, hne, hoff, Nat.add_sub_cancel' hlow, hup.trans (by decide : 24 < 29)]
  · obtain ⟨hlow, hup⟩ := hctl
    interval_cases j <;> simp
  · have hne : ∀ n, n < 29 → j ≠ n := by omega
    simp [hne, hhigh.not_gt, show ¬ j < 16 by omega, show ¬ j - 16 < 8 by omega]

theorem encode_decode (w : PackedWord) : encode (decode w) = w &&& 0x1FFFFFFF#32 := by
  rw [encode, decode, request_decodeRequest, pack_unpack_clear]

/-- Settles O3: packing and unpacking lose nothing of a descriptor, and decoding loses only the ignored bits. -/
theorem decodeAndEncodeAgree : Obligations.DecodeAndEncodeAgree := ⟨decode_encode, encode_decode⟩

/-! ### The rows of the opcode table -/

/-- Bits 31:24 of a packed record hold no bit of its address and data (R66). -/
theorem pack_and_high (r : BusRequest) : pack r &&& 0xFF000000#32 = pack { r with address := 0, data := 0 } := by
  refine BitVec.eq_of_getLsbD_eq fun j hj => ?_
  rw [BitVec.getLsbD_and, getLsbD_pack, getLsbD_pack,
    show 0xFF000000#32 = BitVec.allOnes 32 <<< 24 by decide, BitVec.getLsbD_shiftLeft, BitVec.getLsbD_allOnes]
  obtain hlow | hhigh : j < 24 ∨ 24 ≤ j := by omega
  · have hne : ∀ n, 24 ≤ n → j ≠ n := by omega
    simp [hlow, hne]
  · have haddr : r.address.getLsbD j = false := BitVec.getLsbD_of_ge _ _ (by omega)
    have hdata : r.data.getLsbD (j - 16) = false := BitVec.getLsbD_of_ge _ _ (by omega)
    simp [haddr, hdata, hj, hhigh.not_gt, show j - 24 < 32 by omega]

/-- No row looks at a bit of the address, the data or the ignored bits 31:29 (R68). -/
theorem CycleKind.rowMask_control (k : CycleKind) :
    0xFF000000#32 &&& k.rowMask = k.rowMask ∧ 0x1FFFFFFF#32 &&& k.rowMask = k.rowMask := by cases k <;> decide

/-- The rows of the table, in its order. -/
def CycleKind.all : List CycleKind :=
  [.idle, .busConflict, .memRead, .memWrite, .memNone, .memRwConflict, .intAck, .ioRead, .ioWrite, .ioNone,
    .ioRwConflict]

theorem CycleKind.mem_all (k : CycleKind) : k ∈ CycleKind.all := by cases k <;> decide

/-- Two rows that ask the same of the bits both look at are the same row: any word meets at most one (R68). -/
theorem CycleKind.eq_of_rows_agree {k l : CycleKind} (h : k.rowMatch &&& l.rowMask = l.rowMatch &&& k.rowMask) :
    k = l := by
  have hall : ∀ k ∈ CycleKind.all, ∀ l ∈ CycleKind.all,
      k.rowMatch &&& l.rowMask = l.rowMatch &&& k.rowMask → k = l := by decide
  exact hall k k.mem_all l l.mem_all h

/-- An encoded instruction is in the row of its kind, whatever its operands are. -/
theorem encode_and_rowMask (i : Instr) : encode i &&& i.kind.rowMask = i.kind.rowMatch := by
  rw [← (CycleKind.rowMask_control i.kind).1, ← BitVec.and_assoc, encode, pack_and_high]
  cases i <;> dsimp only [Instr.request, Instr.kind]
  case idle r w k _ _ => revert r w k; decide
  case busConflict r w k _ _ => revert r w k; decide
  case intAck r w _ _ => revert r w; decide
  case memRead k _ _ | memWrite k _ _ | memNone k _ _ | memRwConflict k _ _ => revert k; decide
  case ioRead | ioWrite | ioNone | ioRwConflict => decide

/-- A word is in the row of the kind it decodes to: it agrees with the encoding of what it decodes to on every bit that
a row looks at. -/
theorem and_rowMask_decode (w : PackedWord) : w &&& (decode w).kind.rowMask = (decode w).kind.rowMatch := by
  rw [← (CycleKind.rowMask_control (decode w).kind).2, ← BitVec.and_assoc, ← encode_decode, encode_and_rowMask]

/-- Settles O4: a word is in its own kind's row, and in no other, since two rows that share a word are one. -/
theorem wordIsOfAKindExactlyWhenItsRowMatches : Obligations.WordIsOfAKindExactlyWhenItsRowMatches := by
  refine fun w k => ⟨fun h => h ▸ and_rowMask_decode w, fun h => CycleKind.eq_of_rows_agree ?_⟩
  calc (decode w).kind.rowMatch &&& k.rowMask
      = w &&& (decode w).kind.rowMask &&& k.rowMask := by rw [and_rowMask_decode]
    _ = w &&& k.rowMask &&& (decode w).kind.rowMask := by
      rw [BitVec.and_assoc, BitVec.and_comm (decode w).kind.rowMask, ← BitVec.and_assoc]
    _ = k.rowMatch &&& (decode w).kind.rowMask := by rw [h]

/-- Settles O2: each word is closed, so its decoding is computed. -/
theorem wordsOfTheSpecDecode : Obligations.WordsOfTheSpecDecode := by
  unfold Obligations.WordsOfTheSpecDecode
  decide

/-- Settles O39: the configurations are closed, so the checks of R9 are computed. -/
theorem configurationsAreAdmittedOrRefusedByCheck : Obligations.ConfigurationsAreAdmittedOrRefusedByCheck := by
  unfold Obligations.ConfigurationsAreAdmittedOrRefusedByCheck
  decide

end Sys2Proof
end

section
/-! PROOFS. Services and host events one by one (R85 to R94, R130 to R140): which control bits select a kind, the exact
state each kind without an access leaves, and how a step takes its input. -/

namespace Sys2Proof.Machine

/-! ### A step, by its next input -/

@[simp] theorem State.nextInput_fault (s : State) : s.nextInput.2.fault = s.fault := by
  obtain ⟨l, n, hs⟩ := s.nextInput_state
  rw [hs]

theorem State.nextInput_of_cons {s : State} {i : Input} {l : List Input} (h : s.inputs = i :: l) :
    s.nextInput = (i, { s with inputs := l }) := by simp only [State.nextInput, h]

theorem State.nextInput_of_nil {s : State} (h : s.inputs = []) :
    s.nextInput = (Config.agentInput s.inputDraws, { s with inputDraws := s.inputDraws + 1 }) := by
  simp only [State.nextInput, h]

theorem step_of_fault {s : State} {r : FaultReason} (h : s.fault = some r) : step s = .fault (.faulted r) := by
  simp only [step, h]

theorem step_of_stopped {s : State} (hf : s.fault = none) (hr : s.running = false) : step s = .next s := by
  simp only [step, hf, hr]

theorem step_of_tick {s s' : State} {req : BusRequest} (hf : s.fault = none) (hr : s.running = true)
    (hn : s.nextInput = (.tick req, s')) : step s = exec (decodeRequest req) s' := by simp only [step, hf, hr, hn]

theorem step_of_host {s s' : State} {e : HostEvent} (hf : s.fault = none) (hr : s.running = true)
    (hn : s.nextInput = (.host e, s')) : step s = takeHostEvent e s' := by simp only [step, hf, hr, hn]

theorem wordOfBits_toNat (w : PackedWord) : wordOfBits 32 w.toNat = w := by
  rw [wordOfBits, Nat.mod_eq_of_lt w.isLt, BitVec.ofNat_toNat, BitVec.setWidth_eq]

/-- A presented word is decoded and served on the state as it was. -/
theorem step_withFetchWord {s : State} (hf : s.fault = none) (hr : s.running = true) (w : PackedWord) :
    step (s.withFetchWord 32 w.toNat) = exec (decode w) s := by
  have hn := State.nextInput_of_cons (s.withFetchWord_inputs 32 w.toNat)
  rw [step_of_tick ((s.withFetchWord_fault _ _).trans hf) ((s.withFetchWord_running _ _).trans hr) hn,
    wordOfBits_toNat]
  rfl

/-- Settles O1: the next input is the queue's head, a free value, or the word presented, and a step serves it. -/
theorem stepRunsTheDecodedDescriptor : Obligations.StepRunsTheDecodedDescriptor := by
  refine fun s hf hr => ⟨fun req l hin => step_of_tick hf hr (State.nextInput_of_cons hin),
    fun e l hin => step_of_host hf hr (State.nextInput_of_cons hin), fun hin => ?_, step_withFetchWord hf hr⟩
  have hn := State.nextInput_of_nil hin
  split <;> rename_i hagent <;> rw [hagent] at hn
  · exact step_of_tick hf hr hn
  · exact step_of_host hf hr hn

/-- With no fault a step answers a next state, whatever the next input is and of a stopped state too. -/
theorem step_completes {s : State} (hf : s.fault = none) : ∃ t, step s = .next t := by
  cases hr : s.running with
  | false => exact ⟨s, step_of_stopped hf hr⟩
  | true =>
    have hf' : s.nextInput.2.fault = none := s.nextInput_fault.trans hf
    rcases hn : s.nextInput with ⟨i, s'⟩
    rw [hn] at hf'
    cases i with
    | tick req => exact ⟨_, (step_of_tick hf hr hn).trans (exec_of_none _ hf')⟩
    | host e => exact ⟨_, (step_of_host hf hr hn).trans (takeHostEvent_of_none e hf')⟩

/-- Settles O8: FAULT is the only guard on a service and on a host event, and taking an input does not set it. -/
theorem everyServiceCompletes : Obligations.EveryServiceCompletes :=
  fun _ hf => ⟨fun i => ⟨_, exec_of_none i hf⟩, fun e => ⟨_, takeHostEvent_of_none e hf⟩, step_completes hf⟩

/-- Settles O7: the guard on FAULT answers the fault, a run stops at its first step, and the status is no stop. -/
theorem faultedStateHasNoNextStep : Obligations.FaultedStateHasNoNextStep :=
  fun s r hf => ⟨fun i => exec_of_some i hf, fun e => takeHostEvent_of_some e hf,
    fun n => run_succ_of_fault n (step_of_fault hf), by simp only [State.finalObservation, State.status, hf]⟩

/-! ### The kinds that make no access -/

/-- Settles O5: IDLE only answers. -/
theorem idleDrivesOnlyTheInterruptLine : Obligations.IdleDrivesOnlyTheInterruptLine :=
  ⟨fun req hm hi => by simp [decodeRequest, hm, hi], fun _ _ _ _ _ _ hf => exec_of_none _ hf⟩

/-- Settles O6: the conflicting control bits are tested first in their space, and the effect of each is to raise its
fault. -/
theorem reservedKindsSetOnlyFault : Obligations.ReservedKindsSetOnlyFault :=
  ⟨fun req hm hi => by simp [decodeRequest, hm, hi], fun req hm hi hr hw => by simp [decodeRequest, hm, hi, hr, hw],
    fun req hm hi hk hr hw => by simp [decodeRequest, hm, hi, hk, hr, hw],
    fun _ _ _ _ _ _ hf => ⟨exec_of_none _ hf, exec_of_none _ hf, exec_of_none _ hf⟩⟩

/-- Settles O13: both kinds only answer. -/
theorem cyclesWithNeitherReadNorWriteAccessNothing : Obligations.CyclesWithNeitherReadNorWriteAccessNothing :=
  ⟨fun req hm hi hr hw => by simp [decodeRequest, hm, hi, hr, hw],
    fun req hm hi hk hr hw => by simp [decodeRequest, hm, hi, hk, hr, hw],
    fun _ _ _ _ hf => ⟨exec_of_none _ hf, exec_of_none _ hf⟩⟩

/-! ### Interrupts and the answer's level -/

/-- Settles O29: the effect of an acknowledge is to clear PENDING and answer VECTOR, whatever PENDING was. -/
theorem intAckReturnsTheVectorAndClearsPending : Obligations.IntAckReturnsTheVectorAndClearsPending :=
  ⟨fun req hm hi hk => by simp [decodeRequest, hm, hi, hk], fun _ _ _ _ _ hf => exec_of_none _ hf⟩

/-- Settles O32: an answer carries the level of PENDING after the kind's rule, and decoding ignores the incoming level. -/
theorem everyAnswerShowsThePendingLevel : Obligations.EveryAnswerShowsThePendingLevel := by
  refine ⟨fun i s t h hf => ?_, fun req p s => congrArg (exec · s) (decodeRequest_ignores_interruptPending req p)⟩
  obtain ⟨-, rfl⟩ := exec_eq_next.1 h
  obtain ⟨d, hrsp, -⟩ := effect_rsp hf
  exact ⟨_, hrsp, rfl⟩

/-- Settles O31: the event's effect is to set PENDING, and a service that is no acknowledge keeps the level it answers. -/
theorem raiseSetsPendingAndNothingElse : Obligations.RaiseSetsPendingAndNothingElse := by
  refine fun s hf => ⟨takeHostEvent_of_none .raise hf,
    takeHostEvent_of_none .raise (s := { s with pending := true }) hf, fun i t h hft hk => ?_⟩
  obtain ⟨-, rfl⟩ := exec_eq_next.1 h
  obtain ⟨d, hrsp, -⟩ := effect_rsp hft
  obtain ⟨⟨r, w, a, v, rfl⟩, -⟩ | hkept := effect_pending_cases i { s with pending := true }
  · exact absurd rfl hk
  · exact ⟨_, hrsp, hkept⟩

/-! ### Host events -/

/-- A host event changes PENDING, KBD and the running flag only (R54, R136 to R140, R168). -/
theorem State.hostEvent_eta (s : State) (e : HostEvent) :
    s.hostEvent e = { s with pending := (s.hostEvent e).pending, kbd := (s.hostEvent e).kbd,
                             running := (s.hostEvent e).running } := by cases e <;> rfl

/-- Settles O35: each event's effect is its definition's, and none of them touches memory or clears PENDING. -/
theorem hostEventsTouchOnlyPendingAndKbd : Obligations.HostEventsTouchOnlyPendingAndKbd := by
  refine fun s hf => ⟨fun b => takeHostEvent_of_none (.key b) hf, takeHostEvent_of_none .refresh hf,
    takeHostEvent_of_none .delay hf, takeHostEvent_of_none .cpuReset hf, fun e =>
    ⟨_, takeHostEvent_of_none e hf, s.hostEvent_eta e, fun c => ?_, fun hp => State.hostEvent_pending_of_pending hp e⟩⟩
  rw [s.hostEvent_eta e]
  rfl

end Sys2Proof.Machine
end

section
/-! PROOFS. Memory space (R41 to R49, R97 to R103): what a read answers region by region, what a write stores, that a
write reaches exactly one physical cell, and the services of MEM_READ and MEM_WRITE put together from them. -/

namespace Sys2Proof.Machine

/-! ### A read, region by region -/

theorem State.memRead_of_rom {s : State} {a : Addr} (h : s.config.region a = .rom) :
    s.memRead a = s.rom.read (s.config.rom.offset a) := by simp only [State.memRead, State.cellOf, h, State.readCell]

theorem State.memRead_of_ram {s : State} {a : Addr} (h : s.config.region a = .ram) :
    s.memRead a = s.ram.read (s.config.ram.offset a) := by simp only [State.memRead, State.cellOf, h, State.readCell]

theorem State.memRead_of_win {s : State} {a : Addr} (h : s.config.region a = .win) :
    s.memRead a = s.readCell (.bank s.bank (s.config.win.offset a)) := by simp only [State.memRead, State.cellOf, h]

theorem State.memRead_of_unmapped {s : State} {a : Addr} (h : s.config.region a = .unmapped) :
    s.memRead a = 0x00 := by simp only [State.memRead, State.cellOf, h]

theorem State.memRead_of_cellOf {s : State} {a : Addr} {c : PhysCell} (h : s.cellOf a = some c) :
    s.memRead a = s.readCell c := by simp only [State.memRead, h]

/-- Settles O10: the answer carries the read of the address, which is the mapped byte of its region. -/
theorem memReadReturnsTheMappedByte : Obligations.MemReadReturnsTheMappedByte :=
  ⟨fun req hm hi hr hw => by simp [decodeRequest, hm, hi, hr, hw], fun _ a _ s hf =>
    ⟨s.memRead a, exec_of_none _ hf, State.memRead_of_rom, State.memRead_of_ram, State.memRead_of_win,
      State.memRead_of_unmapped⟩⟩

/-! ### A write, region by region -/

theorem State.memWrite_of_discarded {s : State} {a : Addr}
    (h : s.config.region a = .rom ∨ s.config.region a = .unmapped) (v : Byte) : s.memWrite a v = s := by
  rcases h with h | h <;> simp only [State.memWrite, State.cellOf, h]

theorem State.memWrite_of_ram {s : State} {a : Addr} (h : s.config.region a = .ram) (v : Byte) :
    s.memWrite a v = { s with ram := s.ram.write (s.config.ram.offset a) v } := by
  simp only [State.memWrite, State.cellOf, h]

theorem State.memWrite_of_win {s : State} {a : Addr} (h : s.config.region a = .win) (v : Byte) :
    s.memWrite a v = { s with banks := s.banks.set s.bank ((s.bankArray s.bank).write (s.config.win.offset a) v) } := by
  simp only [State.memWrite, State.cellOf, h]

/-! ### The cell a write reaches -/

theorem State.bankArray_eq_getElem {s : State} {b : Nat} (h : b < s.banks.length) : s.bankArray b = s.banks[b] :=
  List.getD_eq_getElem _ _ h

/-- Storing an array in one bank leaves every other bank alone. -/
theorem State.bankArray_set_ne (s : State) {b b' : Nat} (h : b ≠ b') (m : Memory) :
    State.bankArray { s with banks := s.banks.set b m } b' = s.bankArray b' := by
  simp [State.bankArray, List.getD_eq_getElem?_getD, List.getElem?_set_ne h]

theorem State.bankArray_set_self {s : State} {b : Nat} (h : b < s.banks.length) (m : Memory) :
    State.bankArray { s with banks := s.banks.set b m } b = m := by
  simp [State.bankArray, List.getD_eq_getElem?_getD, h]

/-- The active bank exists (R24, R31). -/
theorem State.Inv.bank_lt_length {s : State} (h : s.Inv) : s.bank < s.banks.length := h.banks_count ▸ h.bank_lt

/-- The active bank's array is in canonical form. -/
theorem State.Inv.bankArray_wf {s : State} (h : s.Inv) : Memory.wf (s.bankArray s.bank) := by
  rw [State.bankArray_eq_getElem h.bank_lt_length]
  exact h.banks_wf _ (List.getElem_mem _)

/-- A write leaves every cell but the one its address reaches alone (R47). -/
theorem State.readCell_memWrite_other {s : State} {a : Addr} {c : PhysCell} (h : s.cellOf a ≠ some c) (v : Byte) :
    (s.memWrite a v).readCell c = s.readCell c := by
  rcases s.memWrite_cases a v with ⟨-, hw⟩ | ⟨hr, hw⟩ | ⟨hr, hw⟩ <;> rw [hw]
  · cases c with
    | ram i =>
      have hi : i ≠ s.config.ram.offset a := fun he => h (by simp only [State.cellOf, hr, he])
      exact Memory.read_write_other _ hi v
    | rom | bank => rfl
  · cases c with
    | bank b i =>
      by_cases hb : s.bank = b
      · subst hb
        have hi : i ≠ s.config.win.offset a := fun he => h (by simp only [State.cellOf, hr, he])
        by_cases hlt : s.bank < s.banks.length
        · simp only [State.readCell, State.bankArray_set_self hlt, Memory.read_write_other _ hi]
        · rw [List.set_eq_of_length_le (Nat.le_of_not_lt hlt)]
      · simp only [State.readCell, s.bankArray_set_ne hb]
    | rom | ram => rfl

/-- The RAM or bank cell that an address reaches reads the byte written there. -/
theorem State.readCell_memWrite_self {s : State} (hinv : s.Inv) {a : Addr} {c : PhysCell} (h : s.cellOf a = some c)
    (hrom : s.config.region a ≠ .rom) (v : Byte) : (s.memWrite a v).readCell c = v := by
  rcases s.cellOf_cases a with ⟨hr, -⟩ | ⟨hr, hc⟩ | ⟨hr, hc⟩ | ⟨-, hc⟩
  · exact absurd hr hrom
  · obtain rfl := Option.some.inj (hc.symm.trans h)
    rw [State.memWrite_of_ram hr]
    exact Memory.read_write_same hinv.ram_wf _ v
  · obtain rfl := Option.some.inj (hc.symm.trans h)
    rw [State.memWrite_of_win hr]
    simp only [State.readCell, State.bankArray_set_self hinv.bank_lt_length,
      Memory.read_write_same hinv.bankArray_wf]
  · cases hc.symm.trans h

/-- A write to a RAM or window address is what the next read of it sees (R98, R103). -/
theorem State.memRead_memWrite_self {s : State} (hinv : s.Inv) {a : Addr}
    (h : s.config.region a = .ram ∨ s.config.region a = .win) (v : Byte) : (s.memWrite a v).memRead a = v := by
  have hrom : s.config.region a ≠ .rom := by rcases h with h | h <;> simp [h]
  rcases s.cellOf_cases a with ⟨hr, -⟩ | ⟨-, hc⟩ | ⟨-, hc⟩ | ⟨hr, -⟩
  · exact absurd hr hrom
  · rw [State.memRead_of_cellOf ((s.memWrite_cellOf a v a).trans hc), State.readCell_memWrite_self hinv hc hrom]
  · rw [State.memRead_of_cellOf ((s.memWrite_cellOf a v a).trans hc), State.readCell_memWrite_self hinv hc hrom]
  · simp [hr] at h

/-- A discarded write leaves the read of its address as it was (R43). -/
theorem State.memRead_memWrite_discarded {s : State} {a : Addr}
    (h : s.config.region a = .rom ∨ s.config.region a = .unmapped) (v : Byte) :
    (s.memWrite a v).memRead a = s.memRead a := by rw [State.memWrite_of_discarded h]

/-- Every other address reads as before: no two addresses reach one cell. -/
theorem State.memRead_memWrite_other (s : State) {a b : Addr} (h : b ≠ a) (v : Byte) :
    (s.memWrite a v).memRead b = s.memRead b := by
  cases hb : s.cellOf b with
  | none => simp only [State.memRead, State.memWrite_cellOf, hb]
  | some c =>
    have ha : s.cellOf a ≠ some c := fun ha => h (State.cellOf_injective hb ha)
    rw [State.memRead_of_cellOf ((s.memWrite_cellOf a v b).trans hb), State.memRead_of_cellOf hb,
      State.readCell_memWrite_other ha]

/-- Writing to a canonical array the byte it already holds changes nothing. -/
theorem Memory.write_read_self {m : Memory} (h : Memory.wf m) (i : Nat) : m.write i (m.read i) = m := by
  refine Memory.ext_read (Memory.write_wf h _ _) h fun j => ?_
  by_cases hj : j = i
  · rw [hj, Memory.read_write_same h]
  · exact Memory.read_write_other m hj _

/-- Writing to the window the byte it already reads changes nothing. -/
theorem State.memWrite_memRead_self {s : State} (hinv : s.Inv) {a : Addr} (h : s.config.region a = .win) :
    s.memWrite a (s.memRead a) = s := by
  rw [State.memWrite_of_win h, State.memRead_of_win h, State.readCell, Memory.write_read_self hinv.bankArray_wf,
    State.bankArray_eq_getElem hinv.bank_lt_length, List.set_getElem_self]

/-! ### The services of MEM_WRITE -/

/-- A MEM_WRITE is the write of its byte, answered by its own descriptor (R98). -/
theorem exec_memWrite_of_memWrite {s u : State} {a : Addr} {v : Byte} (hf : s.fault = none) (h : s.memWrite a v = u)
    (k : Bool) : exec (.memWrite k a v) s = .next (u.respond (Instr.memWrite k a v).request) := by
  rw [exec_of_none _ hf, effect, h]

/-- Settles O11: the three outcomes of a write, the read that follows it, and a write that stores what is there. -/
theorem memWriteStoresOrIsDiscarded : Obligations.MemWriteStoresOrIsDiscarded := by
  refine ⟨fun req hm hi hr hw => by simp [decodeRequest, hm, hi, hr, hw], fun k a v s hf => ⟨s.pending,
    fun hr => exec_memWrite_of_memWrite hf (State.memWrite_of_discarded hr v) k,
    fun hr => exec_memWrite_of_memWrite hf (State.memWrite_of_ram hr v) k,
    fun hr => exec_memWrite_of_memWrite hf (State.memWrite_of_win hr v) k, fun hinv t ht hr => ?_,
    fun hinv hr hv => exec_memWrite_of_memWrite hf (hv ▸ State.memWrite_memRead_self hinv hr) k⟩⟩
  obtain ⟨-, rfl⟩ := exec_eq_next.1 ht
  exact State.memRead_memWrite_self hinv hr v

/-- What a cell that an address reaches says of the address's region. -/
theorem State.region_ne_rom_of_cellOf {s : State} {a : Addr} {c : PhysCell} (h : s.cellOf a = some c)
    (hc : ∀ i, c ≠ .rom i) : s.config.region a ≠ .rom := fun hr =>
  hc (s.config.rom.offset a) (Option.some.inj (h.symm.trans (by simp only [State.cellOf, hr])))

/-- Settles O12: the service is the write of one byte, which changes RAM and BANKS only, and there one cell. -/
theorem memWriteChangesOnlyItsCell : Obligations.MemWriteChangesOnlyItsCell := by
  refine fun k a v s hinv hf => ⟨_, exec_of_none _ hf, ?_, fun c hc => State.readCell_memWrite_other hc v,
    fun b hb => s.memRead_memWrite_other hb v, fun i _ => ?_,
    fun i hc => State.readCell_memWrite_self hinv hc (State.region_ne_rom_of_cellOf hc (by simp)) v,
    fun b i hc => State.readCell_memWrite_self hinv hc (State.region_ne_rom_of_cellOf hc (by simp)) v⟩
  · simp only [effect]
    rw [s.memWrite_eta a v]
    rfl
  · exact congrArg (Memory.read · i) (s.memWrite_rom a v)

/-- Settles O14: the write is served first, and the read that follows answers what the address then reads. -/
theorem readAfterWriteOfTheSameAddress : Obligations.ReadAfterWriteOfTheSameAddress := by
  intro k k' a v d s hinv hf
  have hf' : (effect (.memWrite k a v) s).fault = none := (s.memWrite_fault a v).trans hf
  exact ⟨_, _, _, exec_of_none _ hf, exec_of_none _ hf', rfl, fun hr => State.memRead_memWrite_self hinv (.inl hr) v,
    fun hr => State.memRead_memWrite_self hinv (.inr hr) v, fun hr => State.memRead_memWrite_discarded (.inl hr) v,
    fun hr => (State.memRead_memWrite_discarded (.inr hr) v).trans (State.memRead_of_unmapped hr)⟩

end Sys2Proof.Machine
end

section
/-! PROOFS. I/O space (R24, R25, R70 to R72, R105, R106): legalize as a remainder and as a nearest index, what each device
does on a read and on a write, that an address counts through its identifier bits and its high bit alone, and where BANK
and TRACE can change. -/

namespace Sys2Proof

/-! ### legalize (R25) -/

/-- An admitted configuration has at least one bank (R9). -/
theorem Config.one_le_bankCount_of_wellFormed {c : Config} (h : c.wellFormed = true) : 1 ≤ c.bankCount :=
  (of_decide_eq_true (Config.passes_of_wellFormed h .bankCount)).1

/-- A configuration that is not admitted names a check that it fails (R9). -/
theorem Config.failedCheck_of_not_wellFormed {c : Config} (h : c.wellFormed = false) :
    ∃ k, c.failedCheck = some k ∧ c.passes k = false := by
  cases hk : c.failedCheck with
  | none => exact absurd ((Config.failedCheck_eq_none_iff c).1 hk) (by simp [h])
  | some k => exact ⟨k, rfl, by simpa using List.find?_some hk⟩

/-- Under MASK the bank count of an admitted configuration is a power of two (R9), so the mask takes the remainder. -/
theorem Config.legalize_eq_mod {c : Config} (h : c.wellFormed = true) (hp : c.bankPolicy = .mask) (v : Byte) :
    c.legalize v = v.toNat % c.bankCount := by
  have hpow : 2 ^ c.bankCount.log2 = c.bankCount := of_decide_eq_true (Config.passes_of_wellFormed h .maskPow2) hp
  rw [Config.legalize_of_mask hp, ← hpow, Nat.and_two_pow_sub_one_eq_mod]

theorem Config.legalize_of_lt {c : Config} (h : c.wellFormed = true) {v : Byte} (hv : v.toNat < c.bankCount) :
    c.legalize v = v.toNat := by
  cases hp : c.bankPolicy with
  | mask => rw [Config.legalize_eq_mod h hp, Nat.mod_eq_of_lt hv]
  | clamp =>
    rw [Config.legalize_of_clamp hp]
    omega

/-- Settles O19: both policies stay below the bank count, the mask is a remainder and the clamp the last index. -/
theorem legalizeIsInRangeAndKeepsLegalValues : Obligations.LegalizeIsInRangeAndKeepsLegalValues := by
  intro c v h
  have hpos := Config.one_le_bankCount_of_wellFormed h
  refine ⟨Config.legalize_lt_bankCount hpos v, Config.legalize_of_lt h, fun hn => Config.legalize_of_bankCount_eq_one hn v,
    fun hp => Config.legalize_eq_mod h hp v, fun hp hv => ?_⟩
  rw [Config.legalize_of_clamp hp]
  omega

/-! ### The identifier bits (R70) -/

theorem Config.devId_eq_extractLsb' (c : Config) (a : Addr) :
    c.devId a = (a.extractLsb' 0 c.devIdPolicy.width).toNat := by
  unfold Config.devId
  cases c.devIdPolicy <;> rfl

/-- Two addresses that agree on the identifier bits have one identifier. -/
theorem Config.devId_congr {c : Config} {a b : Addr}
    (h : ∀ j, j < c.devIdPolicy.width → a.getLsbD j = b.getLsbD j) : c.devId a = c.devId b := by
  rw [c.devId_eq_extractLsb', c.devId_eq_extractLsb']
  refine congrArg BitVec.toNat (BitVec.eq_of_getLsbD_eq fun j hj => ?_)
  simp [hj, h j hj]

/-- The high-bit side effect exists under LOW7_HIBANK only, at addresses with that bit set (R70, R117). -/
theorem Config.hiBank_eq_true_iff {c : Config} {a : Addr} :
    c.hiBank a = true ↔ c.devIdPolicy = .low7HiBank ∧ a.getLsbD c.hiBankBit = true := by
  unfold Config.hiBank
  cases c.devIdPolicy <;> simp

/-- The side a sub-identifier selects (R71). -/
theorem Config.lcdSide_eq (c : Config) (id : Nat) :
    c.lcdSide id = if id.testBit c.lcdSubBit then .data else .command := rfl

end Sys2Proof

namespace Sys2Proof.Machine

/-! ### The read and the write side, device by device -/

theorem State.deviceRead_of_terminal {s : State} {a : Addr}
    (h : s.config.device (s.config.devId a) = some .terminal) :
    s.deviceRead a = (s.kbd, { s with kbd := if s.config.kbdReadClears then 0x00 else s.kbd }) := by
  simp only [State.deviceRead, h, State.terminalRead]
  cases s.config.kbdReadClears <;> rfl

theorem State.deviceRead_of_lcd {s : State} {a : Addr} (h : s.config.device (s.config.devId a) = some .lcd) :
    s.deviceRead a = s.lcdRead (s.config.lcdSide (s.config.devId a)) := by simp only [State.deviceRead, h]

theorem State.deviceWrite_of_lcd {s : State} {a : Addr} (h : s.config.device (s.config.devId a) = some .lcd)
    (v : Byte) :
    s.deviceWrite a v =
      s.emit (if (s.config.devId a).testBit s.config.lcdSubBit then .lcdData v else .lcdCmd v) := by
  simp only [State.deviceWrite, h, Config.lcdSide_eq]
  split <;> rfl

/-- BANK after the bank side effect (R117). -/
theorem State.hiBankWrite_bank (s : State) (a : Addr) (v : Byte) :
    (s.hiBankWrite a v).bank =
      if s.config.devIdPolicy = .low7HiBank ∧ a.getLsbD s.config.hiBankBit = true then s.config.legalize v
      else s.bank := by
  unfold State.hiBankWrite
  simp only [Config.hiBank_eq_true_iff]
  split <;> rfl

/-! ### The services of IO_READ and IO_WRITE -/

/-- Settles O24: the read side of each device, answered with its byte. -/
theorem ioReadServesItsDeviceAlone : Obligations.IoReadServesItsDeviceAlone := by
  refine ⟨fun req hm hi hk hr hw => by simp [decodeRequest, hm, hi, hk, hr, hw],
    fun a d s hf => ⟨fun hd => ?_, fun hd => exec_ioRead_sentinel hf hd d, fun hd => ⟨(s.deviceRead a).1, ?_⟩⟩⟩
  · rw [exec_of_none _ hf, effect, State.deviceRead_of_terminal hd]
    rfl
  · rw [exec_of_none _ hf, effect, State.deviceRead_of_lcd hd]
    rfl

/-- Settles O25: the write side of each device on the state that the bank side effect leaves, which differs in BANK
alone. -/
theorem ioWriteServesItsDeviceAlone : Obligations.IoWriteServesItsDeviceAlone := by
  refine ⟨fun req hm hi hk hr hw => by simp [decodeRequest, hm, hi, hk, hr, hw], fun a v s hf =>
    ⟨(s.hiBankWrite a v).bank, s.hiBankWrite_bank a v, fun hd => ?_, fun hd => ?_, fun hd => ?_, fun hd => ?_⟩⟩ <;>
    have hd' : (s.hiBankWrite a v).config.device ((s.hiBankWrite a v).config.devId a) = _ :=
      (s.hiBankWrite_config a v).symm ▸ hd
  · rw [exec_ioWrite_of_deviceWrite hf (State.deviceWrite_of_terminal hd' v), State.hiBankWrite_eta]
    rfl
  · rw [exec_ioWrite_of_deviceWrite hf (State.deviceWrite_of_bankSel hd' v), State.selectBank_hiBankWrite]
    rfl
  · rw [exec_ioWrite_of_deviceWrite hf (State.deviceWrite_of_lcd hd' v), State.hiBankWrite_eta]
    rfl
  · rw [exec_ioWrite_of_deviceWrite hf (State.deviceWrite_of_unregistered hd' v), State.hiBankWrite_eta]
    rfl

/-! ### Ports that share an identifier (R76) -/

/-- A device read sees of an address its identifier only. -/
theorem State.deviceRead_congr {s : State} {a b : Addr} (h : s.config.devId a = s.config.devId b) :
    s.deviceRead a = s.deviceRead b := by simp only [State.deviceRead, h]

/-- A device write sees of an address its identifier only. -/
theorem State.deviceWrite_congr {s : State} {a b : Addr} (h : s.config.devId a = s.config.devId b) (v : Byte) :
    s.deviceWrite a v = s.deviceWrite b v := by simp only [State.deviceWrite, h]

/-- The bank side effect sees of an address its high bit only. -/
theorem State.hiBankWrite_congr {s : State} {a b : Addr} (h : s.config.hiBank a = s.config.hiBank b) (v : Byte) :
    s.hiBankWrite a v = s.hiBankWrite b v := by simp only [State.hiBankWrite, h]

/-- Settles O26: the handlers see the identifier alone and the side effect the high bit alone, so the addresses differ in
the answer only. -/
theorem portsAliasOnTheIdentifierBits : Obligations.PortsAliasOnTheIdentifierBits := by
  intro s a b d hf hbits
  have hid := Config.devId_congr hbits
  refine ⟨⟨(s.deviceRead a).2, { (Instr.ioRead a d).request with
      data := (s.deviceRead a).1, interruptPending := (s.deviceRead a).2.pending }, exec_of_none _ hf, ?_⟩,
    fun hhi => ⟨(s.hiBankWrite a d).deviceWrite a d, { (Instr.ioWrite a d).request with
      interruptPending := ((s.hiBankWrite a d).deviceWrite a d).pending }, exec_of_none _ hf, ?_⟩⟩
  · rw [State.deviceRead_congr hid]
    exact exec_of_none _ hf
  · have hid' : (s.hiBankWrite a d).config.devId a = (s.hiBankWrite a d).config.devId b := by
      rwa [State.hiBankWrite_config]
    rw [State.deviceWrite_congr hid', State.hiBankWrite_congr hhi]
    exact exec_of_none _ hf

/-! ### Where BANK can change (R24) -/

@[simp] theorem State.nextInput_config (s : State) : s.nextInput.2.config = s.config := by
  obtain ⟨l, n, hs⟩ := s.nextInput_state
  rw [hs]

@[simp] theorem State.nextInput_bank (s : State) : s.nextInput.2.bank = s.bank := by
  obtain ⟨l, n, hs⟩ := s.nextInput_state
  rw [hs]

@[simp] theorem State.nextInput_trace (s : State) : s.nextInput.2.trace = s.trace := by
  obtain ⟨l, n, hs⟩ := s.nextInput_state
  rw [hs]

/-- A device write changes BANK at the bank-select device only, to legalize of the byte (R109). -/
theorem State.deviceWrite_bank_cases (s : State) (a : Addr) (v : Byte) :
    (s.config.device (s.config.devId a) = some .bankSel ∧ (s.deviceWrite a v).bank = s.config.legalize v) ∨
      (s.deviceWrite a v).bank = s.bank := by
  rcases s.deviceWrite_cases a v with ⟨-, h⟩ | ⟨hd, h⟩ | ⟨-, -, h⟩ | ⟨-, -, h⟩ | ⟨-, h⟩ <;> rw [h]
  · exact .inr rfl
  · exact .inl ⟨hd, rfl⟩
  all_goals exact .inr rfl

/-- What a service does to BANK: an IO_WRITE at the bank-select device or at a high-bit address selects legalize of its
byte, and every other service leaves it alone (R24). -/
theorem effect_bank_cases (i : Instr) (s : State) :
    (∃ a v, i = .ioWrite a v ∧ (effect i s).bank = s.config.legalize v ∧
      (s.config.device (s.config.devId a) = some .bankSel ∨ s.config.hiBank a = true)) ∨
    (effect i s).bank = s.bank := by
  cases i with
  | ioWrite a v =>
    obtain ⟨hd, hb⟩ | hkept := (s.hiBankWrite a v).deviceWrite_bank_cases a v
    · rw [State.hiBankWrite_config] at hd hb
      exact .inl ⟨a, v, rfl, hb, .inl hd⟩
    · obtain ⟨hhi, hw⟩ | ⟨-, hw⟩ := s.hiBankWrite_cases a v <;> rw [hw] at hkept
      · exact .inl ⟨a, v, rfl, by simpa [effect, hw] using hkept, .inr hhi⟩
      · exact .inr (by simpa [effect, hw] using hkept)
  | memWrite k a d => exact .inr (s.memWrite_bank a d)
  | ioRead a d => exact .inr (s.deviceRead_bank a)
  | idle | memRead | memNone | ioNone => exact .inr (s.respond_bank _)
  | busConflict | memRwConflict | ioRwConflict => exact .inr (s.raiseFault_bank _)
  | intAck => exact .inr s.clearInterrupt_bank

@[simp] theorem State.hostEvent_bank (s : State) (e : HostEvent) : (s.hostEvent e).bank = s.bank := by
  rw [State.hostEvent_eta]

@[simp] theorem State.hostEvent_trace (s : State) (e : HostEvent) : (s.hostEvent e).trace = s.trace := by
  rw [State.hostEvent_eta]

/-- Settles O27: taking the input and a host event keep BANK, and of the services only the documented write does not. -/
theorem bankChangesOnlyThroughItsDocumentedWrite : Obligations.BankChangesOnlyThroughItsDocumentedWrite := by
  intro s t h hne
  have hbank := s.nextInput_bank
  have hconf := s.nextInput_config
  obtain ⟨-, ⟨-, rfl⟩ | ⟨-, req, s', hn, he⟩ | ⟨-, e, s', hn, he⟩⟩ := step_cases h
  · exact absurd rfl hne
  · obtain ⟨-, rfl⟩ := exec_eq_next.1 he
    rw [hn] at hbank hconf
    obtain ⟨a, v, hi, hb, hsel⟩ | hkept := effect_bank_cases (decodeRequest req) s'
    · rw [hconf, Config.hiBank_eq_true_iff] at hsel
      exact ⟨req, a, v, by rw [hn], hi, hconf ▸ hb, hsel⟩
    · exact absurd (hkept.trans hbank) hne
  · obtain ⟨-, rfl⟩ := takeHostEvent_eq_next.1 he
    rw [hn] at hbank
    exact absurd ((s'.hostEvent_bank e).trans hbank) hne

/-! ### Where TRACE can grow (R32) -/

/-- The events of the devices, and the service that each belongs to (R111, R113, R114). -/
inductive EmitsAt (c : Config) : Instr → DeviceEvent → Option BusRequest → Prop where
  | termOut {a v rsp} : c.device (c.devId a) = some .terminal → EmitsAt c (.ioWrite a v) (.termOut v) rsp
  | lcdCmd {a v rsp} : c.device (c.devId a) = some .lcd → c.lcdSide (c.devId a) = .command →
      EmitsAt c (.ioWrite a v) (.lcdCmd v) rsp
  | lcdData {a v rsp} : c.device (c.devId a) = some .lcd → c.lcdSide (c.devId a) = .data →
      EmitsAt c (.ioWrite a v) (.lcdData v) rsp
  | lcdRead {a d rsp q} : c.device (c.devId a) = some .lcd → rsp = some q →
      EmitsAt c (.ioRead a d) (.lcdRead (c.lcdSide (c.devId a)) q.data) rsp

/-- What a service does to TRACE: nothing, or its device's one event at the end (R32, R118). -/
theorem effect_trace_cases (i : Instr) (s : State) :
    (effect i s).trace = s.trace ∨
      ∃ e, (effect i s).trace = s.trace ++ [e] ∧ EmitsAt s.config i e (effect i s).rsp := by
  cases i with
  | ioWrite a v =>
    have hcases := (s.hiBankWrite a v).deviceWrite_cases a v
    rw [State.hiBankWrite_config] at hcases
    obtain ⟨hd, h⟩ | ⟨-, h⟩ | ⟨hd, hl, h⟩ | ⟨hd, hl, h⟩ | ⟨-, h⟩ := hcases
    · exact .inr ⟨.termOut v, by simp [effect, h], .termOut hd⟩
    · exact .inl (by simp [effect, h])
    · exact .inr ⟨.lcdCmd v, by simp [effect, h], .lcdCmd hd hl⟩
    · exact .inr ⟨.lcdData v, by simp [effect, h], .lcdData hd hl⟩
    · exact .inl (by simp [effect, h])
  | ioRead a d =>
    obtain ⟨-, h⟩ | ⟨-, h⟩ | ⟨hd, h⟩ := s.deviceRead_cases a
    · exact .inl (by cases hc : s.config.kbdReadClears <;> simp [effect, h, hc])
    · exact .inl (by simp [effect, h])
    · refine .inr ⟨_, ?_, .lcdRead hd rfl⟩
      simp only [effect, h]
      rfl
  | memWrite k a d => exact .inl (s.memWrite_trace a d)
  | idle | memRead | memNone | ioNone => exact .inl (s.respond_trace _)
  | busConflict | memRwConflict | ioRwConflict => exact .inl (s.raiseFault_trace _)
  | intAck => exact .inl s.clearInterrupt_trace

/-- Settles O28: a service emits at most the event of its device, and nothing else in a step touches TRACE. -/
theorem traceGainsAtMostTheSelectedDevicesEvent : Obligations.TraceGainsAtMostTheSelectedDevicesEvent := by
  intro s t h
  have htrace := s.nextInput_trace
  have hconf := s.nextInput_config
  obtain ⟨-, ⟨-, rfl⟩ | ⟨-, req, s', hn, he⟩ | ⟨-, e, s', hn, he⟩⟩ := step_cases h
  · exact .inl rfl
  · obtain ⟨-, rfl⟩ := exec_eq_next.1 he
    rw [hn] at htrace hconf ⊢
    obtain hkept | ⟨e, hgain, hemit⟩ := effect_trace_cases (decodeRequest req) s'
    · exact .inl (hkept.trans htrace)
    · rw [htrace] at hgain
      rw [hconf] at hemit
      refine .inr ⟨req, ?_⟩
      generalize decodeRequest req = i at hemit hgain ⊢
      cases hemit with
      | termOut hd => exact ⟨_, _, _, rfl, hgain, .inl ⟨rfl, hd, rfl⟩⟩
      | lcdCmd hd hl => exact ⟨_, _, _, rfl, hgain, .inr (.inl ⟨rfl, hd, hl, rfl⟩)⟩
      | lcdData hd hl => exact ⟨_, _, _, rfl, hgain, .inr (.inr (.inl ⟨rfl, hd, hl, rfl⟩))⟩
      | lcdRead hd hr => exact ⟨_, _, _, rfl, hgain, .inr (.inr (.inr ⟨rfl, hd, _, hr, rfl⟩))⟩
  · obtain ⟨-, rfl⟩ := takeHostEvent_eq_next.1 he
    rw [hn] at htrace
    exact .inl ((s'.hostEvent_trace e).trans htrace)

end Sys2Proof.Machine
end

section
/-! PROOFS. Construction, the invariant and runs (R9, R24, R27, R29 to R31, R52, R165, R166): construction meets the
invariant, every service and every step keeps it, and along a run each cell holds the byte last written to it. -/

namespace Sys2Proof.Machine

/-! ### Construction -/

/-- The invariant speaks of the configuration, the memories, BANK and VECTOR only. -/
theorem State.Inv.congr {s t : State} (h : s.Inv) (hconfig : t.config = s.config) (hrom : t.rom = s.rom)
    (hram : t.ram = s.ram) (hbanks : t.banks = s.banks) (hbank : t.bank = s.bank) (hvector : t.vector = s.vector) :
    t.Inv where
  config_wf := hconfig ▸ h.config_wf
  rom_wf := hrom ▸ h.rom_wf
  rom_within := hrom ▸ hconfig ▸ h.rom_within
  ram_wf := hram ▸ h.ram_wf
  ram_within := hram ▸ hconfig ▸ h.ram_within
  banks_count := hbanks ▸ hconfig ▸ h.banks_count
  banks_wf := hbanks ▸ h.banks_wf
  banks_within := hbanks ▸ hconfig ▸ h.banks_within
  bank_lt := hbank ▸ hconfig ▸ h.bank_lt
  vector_eq := hvector ▸ hconfig ▸ h.vector_eq

theorem Memory.wf_nil : Memory.wf [] := ⟨List.Pairwise.nil, by simp⟩

theorem Memory.within_nil (n : Nat) : Memory.within [] n := by simp [Memory.within]

/-- A constructed state meets the invariant: the image is loaded in canonical form within ROM_SIZE, every other array is
empty, and an admitted configuration has a bank 0. -/
theorem State.construct_inv {c : Config} {image : Option (List Byte)} {kbd : Byte} {t : State}
    (h : State.construct c image kbd = .ok t) : t.Inv := by
  obtain ⟨hwf, bytes, -, rfl⟩ := State.construct_eq_ok h
  exact
    { config_wf := hwf
      rom_wf := loadImage_wf _ _
      rom_within := loadImage_within _ _
      ram_wf := Memory.wf_nil
      ram_within := Memory.within_nil _
      banks_count := List.length_replicate
      banks_wf := fun m hm => List.eq_of_mem_replicate hm ▸ Memory.wf_nil
      banks_within := fun m hm => List.eq_of_mem_replicate hm ▸ Memory.within_nil _
      bank_lt := Config.one_le_bankCount_of_wellFormed hwf
      vector_eq := rfl }

/-- Settles O40: the reset state is a constructed one. -/
theorem resetMeetsTheInvariant : Obligations.ResetMeetsTheInvariant := State.construct_inv State.reset_eq_construct

theorem State.construct_of_not_wellFormed {c : Config} (h : c.wellFormed = false) (image : Option (List Byte))
    (kbd : Byte) : ∃ k, c.passes k = false ∧ State.construct c image kbd = .error (.illFormed k) := by
  obtain ⟨k, hk, hpass⟩ := Config.failedCheck_of_not_wellFormed h
  exact ⟨k, hpass, by simp only [State.construct, hk]⟩

theorem State.construct_none {c : Config} (h : c.wellFormed = true) (kbd : Byte) :
    State.construct c none kbd = .error .romUnreadable := by
  simp only [State.construct, (Config.failedCheck_eq_none_iff c).2 h]

theorem State.construct_some {c : Config} (h : c.wellFormed = true) (bytes : List Byte) (kbd : Byte) :
    ∃ t, State.construct c (some bytes) kbd = .ok t := by
  simp only [State.construct, (Config.failedCheck_eq_none_iff c).2 h, Except.ok.injEq, exists_eq']

/-- Every bank of a constructed block reads 0x00, and so does every bank index past BANK_COUNT (R31). -/
theorem State.construct_readCell_bank {c : Config} {image : Option (List Byte)} {kbd : Byte} {t : State}
    (h : State.construct c image kbd = .ok t) (b i : Nat) : t.readCell (.bank b i) = 0x00 := by
  obtain ⟨-, bytes, -, rfl⟩ := State.construct_eq_ok h
  have hempty : (List.replicate c.bankCount ([] : Memory)).getD b [] = [] := by
    rw [List.getD_eq_getElem?_getD, List.getElem?_replicate]
    split <;> rfl
  simp only [State.readCell, State.bankArray, hempty, Memory.read_nil]
  rfl

/-- Settles O37: construction fails exactly at a failed check or a missing image, and else builds the listed state. -/
theorem constructionGivesTheResetValues : Obligations.ConstructionGivesTheResetValues := by
  refine fun c kbd => ⟨fun image h => State.construct_of_not_wellFormed h image kbd,
    fun h => State.construct_none h kbd, fun h bytes => ?_⟩
  obtain ⟨t, ht⟩ := State.construct_some h bytes kbd
  have hinv := State.construct_inv ht
  have hbanks := State.construct_readCell_bank ht
  refine ⟨t, ht, hinv, ?_⟩
  obtain ⟨-, _, ⟨⟩, rfl⟩ := State.construct_eq_ok ht
  exact ⟨rfl, fun _ => rfl, hinv.banks_count, hbanks, rfl, rfl, rfl, rfl, rfl, rfl, rfl, rfl, fun _ => ht⟩

/-! ### The loaded image (R166) -/

/-- The loaded array reads as the image below ROM_SIZE and as 0x00 past the image or past ROM_SIZE. -/
theorem read_loadImage (n : Nat) (image : List Byte) (i : Nat) :
    (loadImage n image).read i = if i < n then image.getD i 0x00 else 0x00 := by
  have h := Memory.read_ofBytes 0 i (image.take n)
  rw [Nat.zero_add] at h
  rw [loadImage, h, List.getElem?_take]
  split
  · exact (List.getD_eq_getElem?_getD ..).symm
  · rfl

/-- A ROM address of a constructed block reads its image byte, 0x00 past the image (R166). -/
theorem State.construct_memRead_of_rom {c : Config} {image : List Byte} {kbd : Byte} {t : State}
    (h : State.construct c (some image) kbd = .ok t) {a : Addr} (hr : c.region a = .rom) :
    t.memRead a = image.getD (a.toNat - c.rom.base.toNat) 0x00 := by
  have hlt := Span.offset_lt (Config.contains_of_region.1 hr)
  obtain ⟨-, _, ⟨⟩, rfl⟩ := State.construct_eq_ok h
  exact (State.memRead_of_rom hr).trans ((read_loadImage _ _ _).trans (if_pos hlt))

/-- Settles O38: ROM is the loaded image, read by offset from ROM_BASE. -/
theorem romImageIsPaddedOrTruncated : Obligations.RomImageIsPaddedOrTruncated := by
  intro c image kbd t h
  have hread : ∀ i, t.rom.read i = if i < c.rom.size then image.getD i 0x00 else 0x00 := by
    obtain ⟨-, _, ⟨⟩, rfl⟩ := State.construct_eq_ok h
    exact read_loadImage _ _
  have hpad : ∀ i, image.length ≤ i → t.rom.read i = 0x00 := fun i hi => by
    rw [hread, List.getD_eq_default _ _ hi, ite_self]
  exact ⟨fun i hi _ => (hread i).trans (if_pos hi), hpad, fun i hi => (hread i).trans (if_neg hi.not_gt),
    fun a hr => State.construct_memRead_of_rom h hr, fun he i => hpad i (he ▸ i.zero_le)⟩

/-! ### The invariant through a step -/

/-- A memory write keeps the invariant: an address inside a region has an offset below the region's size (R22). -/
theorem State.memWrite_inv {s : State} (h : s.Inv) (a : Addr) (v : Byte) : (s.memWrite a v).Inv := by
  obtain ⟨-, hw⟩ | ⟨hr, hw⟩ | ⟨hr, hw⟩ := s.memWrite_cases a v <;> rw [hw]
  · exact h
  · have hlt := Span.offset_lt (Config.contains_of_region.2.1 hr)
    exact { h with ram_wf := Memory.write_wf h.ram_wf _ v, ram_within := Memory.write_within h.ram_within hlt v }
  · have hlt := Span.offset_lt (Config.contains_of_region.2.2 hr)
    have hmem : s.bankArray s.bank ∈ s.banks := by
      rw [State.bankArray_eq_getElem h.bank_lt_length]
      exact List.getElem_mem _
    exact
      { h with
        banks_count := List.length_set.trans h.banks_count
        banks_wf := fun m hm => (List.mem_or_eq_of_mem_set hm).elim (h.banks_wf m) fun he =>
          he ▸ Memory.write_wf (h.banks_wf _ hmem) _ v
        banks_within := fun m hm => (List.mem_or_eq_of_mem_set hm).elim (h.banks_within m) fun he =>
          he ▸ Memory.write_within (h.banks_within _ hmem) hlt v }

/-- A bank selection keeps the invariant: legalize is in range (R25). -/
theorem State.selectBank_inv {s : State} (h : s.Inv) (v : Byte) : (s.selectBank v).Inv :=
  { h with bank_lt := Config.legalize_lt_bankCount (Config.one_le_bankCount_of_wellFormed h.config_wf) v }

theorem State.hiBankWrite_inv {s : State} (h : s.Inv) (a : Addr) (v : Byte) : (s.hiBankWrite a v).Inv := by
  obtain ⟨-, hw⟩ | ⟨-, hw⟩ := s.hiBankWrite_cases a v <;> rw [hw]
  · exact State.selectBank_inv h v
  · exact h

theorem State.deviceWrite_inv {s : State} (h : s.Inv) (a : Addr) (v : Byte) : (s.deviceWrite a v).Inv := by
  obtain ⟨-, hw⟩ | ⟨-, hw⟩ | ⟨-, -, hw⟩ | ⟨-, -, hw⟩ | ⟨-, hw⟩ := s.deviceWrite_cases a v <;> rw [hw]
  case inr.inl => exact State.selectBank_inv h v
  all_goals exact h.congr rfl rfl rfl rfl rfl rfl

/-- Every service keeps the invariant: a memory write and a bank selection are the only two that touch what it speaks
of. -/
theorem effect_inv {s : State} (h : s.Inv) (i : Instr) : (effect i s).Inv := by
  cases i with
  | memWrite k a d => exact (State.memWrite_inv h a d).congr rfl rfl rfl rfl rfl rfl
  | ioWrite a d => exact (State.deviceWrite_inv (State.hiBankWrite_inv h a d) a d).congr rfl rfl rfl rfl rfl rfl
  | ioRead a d =>
    exact h.congr (s.deviceRead_config a) (s.deviceRead_rom a) (s.deviceRead_ram a) (s.deviceRead_banks a)
      (s.deviceRead_bank a) (s.deviceRead_vector a)
  | idle | memRead | memNone | ioNone | busConflict | memRwConflict | ioRwConflict | intAck =>
    exact h.congr rfl rfl rfl rfl rfl rfl

theorem State.nextInput_inv {s : State} (h : s.Inv) : s.nextInput.2.Inv := by
  obtain ⟨l, n, hs⟩ := s.nextInput_state
  rw [hs]
  exact h.congr rfl rfl rfl rfl rfl rfl

theorem State.hostEvent_inv {s : State} (h : s.Inv) (e : HostEvent) : (s.hostEvent e).Inv := by
  rw [State.hostEvent_eta]
  exact h.congr rfl rfl rfl rfl rfl rfl

/-- Settles O41: taking an input, a service and a host event each keep the invariant. -/
theorem everyStepKeepsTheInvariant : Obligations.EveryStepKeepsTheInvariant := by
  intro s t h hstep
  have hin := State.nextInput_inv h
  obtain ⟨-, ⟨-, rfl⟩ | ⟨-, req, s', hn, he⟩ | ⟨-, e, s', hn, he⟩⟩ := step_cases hstep
  · exact h
  · obtain ⟨-, rfl⟩ := exec_eq_next.1 he
    rw [hn] at hin
    exact effect_inv hin _
  · obtain ⟨-, rfl⟩ := takeHostEvent_eq_next.1 he
    rw [hn] at hin
    exact State.hostEvent_inv hin e

/-! ### Constants of construction (R27, R119) -/

@[simp] theorem effect_config (i : Instr) (s : State) : (effect i s).config = s.config := by
  cases i with
  | memWrite k a d => exact s.memWrite_config a d
  | ioRead a d => exact s.deviceRead_config a
  | ioWrite a d => exact ((s.hiBankWrite a d).deviceWrite_config a d).trans (s.hiBankWrite_config a d)
  | idle | memRead | memNone | ioNone | busConflict | memRwConflict | ioRwConflict | intAck => rfl

@[simp] theorem effect_vector (i : Instr) (s : State) : (effect i s).vector = s.vector := by
  cases i with
  | memWrite k a d => exact s.memWrite_vector a d
  | ioRead a d => exact s.deviceRead_vector a
  | ioWrite a d => exact ((s.hiBankWrite a d).deviceWrite_vector a d).trans (s.hiBankWrite_vector a d)
  | idle | memRead | memNone | ioNone | busConflict | memRwConflict | ioRwConflict | intAck => rfl

@[simp] theorem State.nextInput_vector (s : State) : s.nextInput.2.vector = s.vector := by
  obtain ⟨l, n, hs⟩ := s.nextInput_state
  rw [hs]

/-- No step changes the configuration or VECTOR. -/
theorem step_config_vector (s t : State) (h : step s = .next t) : (t.config, t.vector) = (s.config, s.vector) := by
  have hconfig := s.nextInput_config
  have hvector := s.nextInput_vector
  obtain ⟨-, ⟨-, rfl⟩ | ⟨-, req, s', hn, he⟩ | ⟨-, e, s', hn, he⟩⟩ := step_cases h
  · rfl
  · obtain ⟨-, rfl⟩ := exec_eq_next.1 he
    rw [hn] at hconfig hvector
    rw [effect_config, effect_vector, hconfig, hvector]
  · obtain ⟨-, rfl⟩ := takeHostEvent_eq_next.1 he
    rw [hn] at hconfig hvector
    rw [State.hostEvent_eta, hconfig, hvector]

/-- Settles O42: a run keeps what every step keeps, and the device of an address is read off the configuration. -/
theorem constructionConstantsNeverChange : Obligations.ConstructionConstantsNeverChange := by
  intro n s t h
  obtain ⟨hconfig, hvector⟩ := Prod.mk.inj (run_keeps (f := fun u => (u.config, u.vector)) step_config_vector h)
  exact ⟨hconfig, hvector, fun a => by rw [hconfig]⟩

/-! ### The most recent store (R52) -/

/-- A service that is no MEM_WRITE leaves every physical cell as it was. -/
theorem readCell_effect_of_storeOf_eq_none {i : Instr} (h : storeOf i = none) (s : State) (c : PhysCell) :
    (effect i s).readCell c = s.readCell c := by
  cases i with
  | memWrite k a d => cases h
  | ioRead a d =>
    simp only [effect]
    rw [s.deviceRead_eta a]
    rfl
  | ioWrite a d =>
    simp only [effect]
    rw [State.deviceWrite_eta, State.hiBankWrite_eta]
    rfl
  | idle | memRead | memNone | ioNone => exact s.respond_readCell _ c
  | busConflict | memRwConflict | ioRwConflict => exact s.raiseFault_readCell _ c
  | intAck => exact s.clearInterrupt_readCell c

theorem storeOf_eq_some {i : Instr} {a : Addr} {v : Byte} (h : storeOf i = some (a, v)) : ∃ k, i = .memWrite k a v := by
  cases i with
  | memWrite k b w =>
    obtain ⟨rfl, rfl⟩ := Prod.mk.inj (Option.some.inj h)
    exact ⟨k, rfl⟩
  | _ => cases h

/-- What the next store of a state about to serve a descriptor is: none for a kind that stores nothing and for a
discarded write, else the byte of the MEM_WRITE, in the RAM or bank cell its address reaches. -/
theorem State.nextStore_cases {s : State} {req : BusRequest} (hf : s.fault = none) (hr : s.running = true)
    (hn : s.nextInput.1 = .tick req) :
    (storeOf (decodeRequest req) = none ∧ s.nextStore = none) ∨
    ∃ a v, storeOf (decodeRequest req) = some (a, v) ∧
      (((s.config.region a = .rom ∨ s.config.region a = .unmapped) ∧ s.nextStore = none) ∨
       ∃ c, s.cellOf a = some c ∧ s.config.region a ≠ .rom ∧ s.nextStore = some (c, v)) := by
  cases hst : storeOf (decodeRequest req) with
  | none => exact .inl ⟨rfl, by simp only [State.nextStore, State.status, hf, hr, hn, hst]⟩
  | some store =>
    obtain ⟨a, v⟩ := store
    refine .inr ⟨a, v, rfl, ?_⟩
    rcases s.cellOf_cases a with ⟨hreg, hc⟩ | ⟨hreg, hc⟩ | ⟨hreg, hc⟩ | ⟨hreg, hc⟩
    · exact .inl ⟨.inl hreg, by simp only [State.nextStore, State.status, hf, hr, hn, hst, hc]⟩
    · exact .inr ⟨_, hc, by simp [hreg], by simp only [State.nextStore, State.status, hf, hr, hn, hst, hc]⟩
    · exact .inr ⟨_, hc, by simp [hreg], by simp only [State.nextStore, State.status, hf, hr, hn, hst, hc]⟩
    · exact .inl ⟨.inr hreg, by simp only [State.nextStore, State.status, hf, hr, hn, hst, hc]⟩

theorem State.nextStore_of_stopped {s : State} (hr : s.running = false) : s.nextStore = none := by
  simp only [State.nextStore, State.status, hr]
  cases s.fault <;> rfl

theorem State.nextStore_of_host {s : State} {e : HostEvent} (hn : s.nextInput.1 = .host e) : s.nextStore = none := by
  unfold State.nextStore
  cases s.status <;> simp only [hn]

theorem State.hostEvent_readCell (s : State) (e : HostEvent) (c : PhysCell) :
    (s.hostEvent e).readCell c = s.readCell c := by
  rw [State.hostEvent_eta]
  rfl

@[simp] theorem State.nextInput_readCell (s : State) (c : PhysCell) : s.nextInput.2.readCell c = s.readCell c := by
  obtain ⟨l, n, hs⟩ := s.nextInput_state
  rw [hs]
  rfl

@[simp] theorem State.nextInput_cellOf (s : State) (a : Addr) : s.nextInput.2.cellOf a = s.cellOf a := by
  obtain ⟨l, n, hs⟩ := s.nextInput_state
  rw [hs]
  rfl

theorem readCell_effect_memWrite (k : Bool) (a : Addr) (v : Byte) (s : State) (c : PhysCell) :
    (effect (.memWrite k a v) s).readCell c = (s.memWrite a v).readCell c := rfl

/-- What a step leaves in a cell (R52): the byte of the step's store if it goes to that cell, else what was there. -/
theorem step_readCell {s t : State} (hinv : s.Inv) (h : step s = .next t) (c : PhysCell) :
    (s.nextStore = none ∧ t.readCell c = s.readCell c) ∨
      ∃ c' v, s.nextStore = some (c', v) ∧ t.readCell c = if c' = c then v else s.readCell c := by
  have hinv' := State.nextInput_inv hinv
  have hconfig := s.nextInput_config
  have hread := s.nextInput_readCell c
  have hcellOf := s.nextInput_cellOf
  obtain ⟨hf, ⟨hr, rfl⟩ | ⟨hr, req, s', hn, he⟩ | ⟨-, e, s', hn, he⟩⟩ := step_cases h
  · exact .inl ⟨State.nextStore_of_stopped hr, rfl⟩
  · obtain ⟨-, rfl⟩ := exec_eq_next.1 he
    have hreq : s.nextInput.1 = .tick req := by rw [hn]
    rw [hn] at hinv' hconfig hread hcellOf
    obtain ⟨hst, hnext⟩ | ⟨a, v, hst, hcell⟩ := State.nextStore_cases hf hr hreq
    · exact .inl ⟨hnext, (readCell_effect_of_storeOf_eq_none hst s' c).trans hread⟩
    · obtain ⟨k, hi⟩ := storeOf_eq_some hst
      rw [hi, readCell_effect_memWrite]
      rw [← hconfig, ← hcellOf] at hcell
      obtain ⟨hreg, hnext⟩ | ⟨c', hc, hreg, hnext⟩ := hcell
      · exact .inl ⟨hnext, by rw [State.memWrite_of_discarded hreg, hread]⟩
      · refine .inr ⟨c', v, hnext, ?_⟩
        by_cases heq : c' = c
        · rw [if_pos heq, State.readCell_memWrite_self hinv' (heq ▸ hc) hreg]
        · have hne : s'.cellOf a ≠ some c := fun hc' => heq (Option.some.inj (hc.symm.trans hc'))
          rw [if_neg heq, State.readCell_memWrite_other hne, hread]
  · obtain ⟨-, rfl⟩ := takeHostEvent_eq_next.1 he
    have hev : s.nextInput.1 = .host e := by rw [hn]
    rw [hn] at hread
    exact .inl ⟨State.nextStore_of_host hev, (s'.hostEvent_readCell e c).trans hread⟩

/-- Settles O18, by induction on the run: its first step leaves in the cell what the rest of the run starts from. -/
theorem everyCellHoldsItsMostRecentWrite : Obligations.EveryCellHoldsItsMostRecentWrite := by
  intro n
  induction n with
  | zero =>
    rintro s t - ⟨⟩ c
    rfl
  | succ n ih =>
    intro s t hinv hrun c
    obtain ⟨u, hu, ht⟩ := run_succ_eq_next hrun
    have hrest := ih u t (everyStepKeepsTheInvariant s u hinv hu) ht c
    obtain ⟨hnext, hcell⟩ | ⟨c', v, hnext, hcell⟩ := step_readCell hinv hu c
    · simpa only [mostRecentStore, hu, hnext, hcell] using hrest
    · simpa only [mostRecentStore, hu, hnext, hcell] using hrest

end Sys2Proof.Machine
end

section
/-! PROOFS. Short runs (R50, R134, R138, R175) and boot (R170): the input queue consumed tick by tick, a bank selected and
read, two raises and two acknowledges, a stop, and the first services of a constructed block. -/

namespace Sys2Proof.Machine

/-! ### A run along its queue -/

/-- A queued descriptor of an instruction: the run goes on from the instruction's effect. -/
theorem run_succ_of_tick {s u : State} {i : Instr} {l : List Input} (hf : s.fault = none) (hr : s.running = true)
    (hin : s.inputs = .tick i.request :: l) (hu : effect i { s with inputs := l } = u) (n : Nat) :
    Host.Core.run Sys2Proof.core (n + 1) s = Host.Core.run Sys2Proof.core n u := by
  refine run_succ_of_next n ?_
  rw [step_of_tick hf hr (State.nextInput_of_cons hin), decodeRequest_request, ← hu]
  exact exec_of_none i hf

/-- A queued host event: the run goes on from the event's effect. -/
theorem run_succ_of_host {s u : State} {e : HostEvent} {l : List Input} (hf : s.fault = none) (hr : s.running = true)
    (hin : s.inputs = .host e :: l) (hu : State.hostEvent { s with inputs := l } e = u) (n : Nat) :
    Host.Core.run Sys2Proof.core (n + 1) s = Host.Core.run Sys2Proof.core n u := by
  refine run_succ_of_next n ?_
  rw [step_of_host hf hr (State.nextInput_of_cons hin), ← hu]
  exact takeHostEvent_of_none e hf

/-- A stopped run stays where it is, however long (R138). -/
theorem run_of_stopped {s : State} (hf : s.fault = none) (hr : s.running = false) (n : Nat) :
    Host.Core.run Sys2Proof.core n s = .next s := by
  induction n with
  | zero => rfl
  | succ n ih => rw [run_succ_of_next n (step_of_stopped hf hr), ih]

/-- Settles O36: the stop takes the event and clears the running flag, and every step after it answers its own state. -/
theorem stopEndsTheRunAndKeepsTheState : Obligations.StopEndsTheRunAndKeepsTheState := by
  intro s rest hf hr hin
  have hgoing : s.status = .going := by simp only [State.status, hf, hr]
  have hstopped : State.status { s with running := false, inputs := rest } = .stopped := by
    simp only [State.status, hf]
  refine ⟨hgoing, by simp only [State.finalObservation, hgoing], fun n =>
    ⟨{ s with running := false, inputs := rest }, ?_, rfl, hstopped, by simp only [State.finalObservation, hstopped]⟩⟩
  exact (run_succ_of_host hf hr hin rfl n).trans (run_of_stopped (s := { s with running := false, inputs := rest }) hf rfl n)

/-- Settles O34: each of the four inputs is taken in turn, and its effect is its definition's. -/
theorem raisesMergeAndOneAcknowledgeClearsThem : Obligations.RaisesMergeAndOneAcknowledgeClearsThem := by
  intro s r w r' w' a a' d d' rest hf hr hin
  have h₁ := run_succ_of_host hf hr hin rfl
  have h₂ := fun n => (h₁ (n + 1)).trans (run_succ_of_host (by exact hf) (by exact hr) rfl rfl n)
  have h₃ := fun n => (h₂ (n + 1)).trans (run_succ_of_tick (by exact hf) (by exact hr) rfl rfl n)
  have h₄ := fun n => (h₃ (n + 1)).trans (run_succ_of_tick (by exact hf) (by exact hr) rfl rfl n)
  exact ⟨⟨_, h₁ 0, rfl⟩, ⟨_, h₂ 0, rfl⟩, ⟨_, h₃ 0, rfl, rfl⟩, ⟨_, h₄ 0, rfl, rfl⟩⟩

/-! ### A bank selected and read (R50) -/

theorem effect_ioWrite_of_bankSel {s : State} {p : Addr} (h : s.config.device (s.config.devId p) = some .bankSel)
    (v : Byte) :
    effect (.ioWrite p v) s =
      { s with bank := s.config.legalize v, rsp := some ⟨p, v, false, true, false, true, false, s.pending⟩ } := by
  have hd : (s.hiBankWrite p v).config.device ((s.hiBankWrite p v).config.devId p) = some .bankSel := by
    rwa [State.hiBankWrite_config]
  rw [effect, State.deviceWrite_of_bankSel hd, State.selectBank_hiBankWrite]
  rfl

theorem effect_memRead_of_win {s : State} {a : Addr} (h : s.config.region a = .win) (k : Bool) (d : Byte) :
    effect (.memRead k a d) s =
      { s with rsp := some ⟨a, s.readCell (.bank s.bank (s.config.win.offset a)), true, false, true, false, k,
                 s.pending⟩ } := by
  rw [effect, State.memRead_of_win h]
  rfl

/-- Two ticks that select a bank and read a window address: the answer carries that bank's own byte, and BANK, the answer
and the queue are all that changed. -/
theorem run_select_then_read {s : State} {p a : Addr} {v d : Byte} {k : Bool} {l : List Input} (hf : s.fault = none)
    (hr : s.running = true) (hp : s.config.device (s.config.devId p) = some .bankSel) (ha : s.config.region a = .win)
    (hin : s.inputs = .tick (Instr.ioWrite p v).request :: .tick (Instr.memRead k a d).request :: l) (n : Nat) :
    Host.Core.run Sys2Proof.core (n + 2) s =
      Host.Core.run Sys2Proof.core n
        { s with bank := s.config.legalize v, inputs := l,
                 rsp := some ⟨a, s.readCell (.bank (s.config.legalize v) (s.config.win.offset a)), true, false, true,
                   false, k, s.pending⟩ } := by
  have hselect := effect_ioWrite_of_bankSel (s := { s with inputs := .tick (Instr.memRead k a d).request :: l }) hp v
  exact (run_succ_of_tick hf hr hin hselect (n + 1)).trans
    (run_succ_of_tick (by exact hf) (by exact hr) rfl (effect_memRead_of_win (by exact ha) k d) n)

/-- A tick that writes a window address: the active bank holds the byte there, and every other bank its own. -/
theorem run_succ_of_window_write {s : State} {a : Addr} {v : Byte} {k : Bool} {l : List Input} (hinv : s.Inv)
    (hf : s.fault = none) (hr : s.running = true) (ha : s.config.region a = .win)
    (hin : s.inputs = .tick (Instr.memWrite k a v).request :: l) :
    ∃ u : State, (∀ n, Host.Core.run Sys2Proof.core (n + 1) s = Host.Core.run Sys2Proof.core n u) ∧
      u.config = s.config ∧ u.fault = none ∧ u.running = true ∧ u.inputs = l ∧
      u.readCell (.bank s.bank (s.config.win.offset a)) = v ∧
      ∀ b, b ≠ s.bank → u.readCell (.bank b (s.config.win.offset a)) = s.readCell (.bank b (s.config.win.offset a)) := by
  have hinv' : State.Inv { s with inputs := l } := hinv.congr rfl rfl rfl rfl rfl rfl
  have hcell : State.cellOf { s with inputs := l } a = some (.bank s.bank (s.config.win.offset a)) := by
    simp only [State.cellOf, ha]
  refine ⟨_, run_succ_of_tick hf hr hin rfl, effect_config _ _, (State.memWrite_fault _ a v).trans hf,
    (State.memWrite_running _ a v).trans hr, State.memWrite_inputs _ a v,
    State.readCell_memWrite_self hinv' hcell (by simp [ha]) v, fun b hb => ?_⟩
  have hother : State.cellOf { s with inputs := l } a ≠ some (.bank b (s.config.win.offset a)) := by
    simp [hcell, hb.symm]
  exact State.readCell_memWrite_other hother v

/-- Settles O17: after the write, each pair of a selection and a read answers the selected bank's own byte. -/
theorem bankIsolationAndPersistence : Obligations.BankIsolationAndPersistence := by
  intro s k₁ k₂ k₃ a p v v₁ v₂ d₁ d₂ rest hinv hf hr ha hp hback hother hin
  obtain ⟨u, hwrite, hconfig, huf, hur, huin, hstored, hkept⟩ := run_succ_of_window_write hinv hf hr ha hin
  rw [← hconfig] at ha hp hback hother hstored hkept ⊢
  have hthree := fun n => (hwrite (n + 2)).trans (run_select_then_read huf hur hp ha huin n)
  have hfive := fun n => (hthree (n + 2)).trans
    (run_select_then_read (by exact huf) (by exact hur) (by exact hp) (by exact ha) rfl n)
  exact ⟨⟨_, _, hthree 0, rfl, rfl, hkept _ hother⟩, _, _, hfive 0, rfl, hback, rfl, hback ▸ hstored⟩

/-! ### Boot (R170) -/

/-- A constructed block takes services at once: it runs, with no fault, in bank 0, and KBD is the drawn byte. -/
theorem State.construct_ready {c : Config} {image : Option (List Byte)} {kbd : Byte} {t : State}
    (h : State.construct c image kbd = .ok t) :
    t.config = c ∧ t.fault = none ∧ t.running = true ∧ t.bank = 0 ∧ t.kbd = kbd ∧ t.ram = [] := by
  obtain ⟨-, _, -, rfl⟩ := State.construct_eq_ok h
  exact ⟨rfl, rfl, rfl, rfl, rfl, rfl⟩

/-- Outside ROM every address of a constructed block reads 0x00 (R30, R31, R42). -/
theorem State.construct_memRead_of_ne_rom {c : Config} {image : Option (List Byte)} {kbd : Byte} {t : State}
    (h : State.construct c image kbd = .ok t) {a : Addr} (ha : c.region a ≠ .rom) : t.memRead a = 0x00 := by
  obtain ⟨hconfig, -, -, -, -, hram⟩ := State.construct_ready h
  rw [← hconfig] at ha
  cases hr : t.config.region a with
  | rom => exact absurd hr ha
  | ram =>
    rw [State.memRead_of_ram hr, hram]
    rfl
  | win => rw [State.memRead_of_win hr, State.construct_readCell_bank h]
  | unmapped => exact State.memRead_of_unmapped hr

/-- Settles O45: construction leaves a state that is ready, whose reads are the image's bytes and zeros, and whose window
is bank 0. -/
theorem constructedBlockBootsWithNoSetUp : Obligations.ConstructedBlockBootsWithNoSetUp := by
  intro c image kbd s h
  have hinv := State.construct_inv h
  have hzero := State.construct_readCell_bank h
  obtain ⟨rfl, hf, hr, hbank, rfl, -⟩ := State.construct_ready h
  refine ⟨fun w => ⟨_, (step_withFetchWord hf hr w).trans (exec_of_none _ hf)⟩,
    fun k a d => ⟨_, _, exec_of_none _ hf, rfl, State.construct_memRead_of_rom h, State.construct_memRead_of_ne_rom h⟩,
    fun k a v ha => ⟨_, exec_of_none _ hf, ?_, fun b i hb => ?_⟩,
    fun a d hd => ⟨_, _, exec_of_none _ hf, rfl, congrArg Prod.fst (State.deviceRead_of_terminal hd)⟩⟩
  all_goals
    have hcell : s.cellOf a = some (.bank 0 (s.config.win.offset a)) := by simp only [State.cellOf, ha, hbank]
  · exact State.readCell_memWrite_self hinv hcell (by simp [ha]) v
  · exact (State.readCell_memWrite_other (by simp [hcell, hb.symm]) v).trans (hzero b i)

end Sys2Proof.Machine
end

section
/-! PROOFS. What cannot be seen (R34, R96, R102): an update of fields that an operation neither reads nor writes goes
through the operation unchanged. Each statement compares a service of a state with the service of an updated one. -/

namespace Sys2Proof.Machine

/-! ### Updates that an operation does not see -/

/-- An update of the state that leaves alone what a memory access reads and writes (R41 to R43). For an update written
out field by field each condition holds by computation. -/
structure HiddenFromMemory (f : State → State) : Prop where
  config : ∀ s, (f s).config = s.config := by intros; rfl
  rom : ∀ s, (f s).rom = s.rom := by intros; rfl
  ram : ∀ s, (f s).ram = s.ram := by intros; rfl
  banks : ∀ s, (f s).banks = s.banks := by intros; rfl
  bank : ∀ s, (f s).bank = s.bank := by intros; rfl
  set_ram : ∀ s m, { f s with ram := m } = f { s with ram := m } := by intros; rfl
  set_banks : ∀ s l, { f s with banks := l } = f { s with banks := l } := by intros; rfl

/-- An update that also leaves alone what an I/O write reads and writes (R106, R117). -/
structure HiddenFromWrites (f : State → State) : Prop extends HiddenFromMemory f where
  selectBank : ∀ s v, (f s).selectBank v = f (s.selectBank v) := by intros; rfl
  emit : ∀ s e, (f s).emit e = f (s.emit e) := by intros; rfl

/-- An update that also leaves alone the fault, the interrupt state and the answer, so that only a device read could see
it. -/
structure HiddenButFromReads (f : State → State) : Prop extends HiddenFromWrites f where
  vector : ∀ s, (f s).vector = s.vector := by intros; rfl
  raiseFault : ∀ s r, (f s).raiseFault r = f (s.raiseFault r) := by intros; rfl
  clearInterrupt : ∀ s, (f s).clearInterrupt = f s.clearInterrupt := by intros; rfl
  respond : ∀ s q, (f s).respond q = f (s.respond q) := by intros; rfl

section Hidden

variable {f : State → State}

theorem HiddenFromMemory.cellOf (hf : HiddenFromMemory f) (s : State) (a : Addr) : (f s).cellOf a = s.cellOf a := by
  simp only [State.cellOf, hf.config, hf.bank]

theorem HiddenFromMemory.bankArray (hf : HiddenFromMemory f) (s : State) (b : Nat) :
    (f s).bankArray b = s.bankArray b := by simp only [State.bankArray, hf.banks]

theorem HiddenFromMemory.readCell (hf : HiddenFromMemory f) (s : State) (c : PhysCell) :
    (f s).readCell c = s.readCell c := by
  cases c with
  | rom i => simp only [State.readCell, hf.rom]
  | ram i => simp only [State.readCell, hf.ram]
  | bank b i => simp only [State.readCell, hf.bankArray]

theorem HiddenFromMemory.memRead (hf : HiddenFromMemory f) (s : State) (a : Addr) : (f s).memRead a = s.memRead a := by
  simp only [State.memRead, hf.cellOf, hf.readCell]

theorem HiddenFromMemory.memWrite_comm (hf : HiddenFromMemory f) (s : State) (a : Addr) (v : Byte) :
    (f s).memWrite a v = f (s.memWrite a v) := by
  obtain ⟨hr, hw⟩ | ⟨hr, hw⟩ | ⟨hr, hw⟩ := s.memWrite_cases a v <;> rw [hw] <;> rw [← hf.config] at hr
  · exact State.memWrite_of_discarded hr v
  · refine ((State.memWrite_of_ram hr v).trans ?_).trans (hf.set_ram s _)
    simp only [hf.config, hf.ram]
  · refine ((State.memWrite_of_win hr v).trans ?_).trans (hf.set_banks s _)
    simp only [hf.config, hf.banks, hf.bank, hf.bankArray]

theorem HiddenFromWrites.hiBankWrite_comm (hf : HiddenFromWrites f) (s : State) (a : Addr) (v : Byte) :
    (f s).hiBankWrite a v = f (s.hiBankWrite a v) := by
  unfold State.hiBankWrite
  rw [hf.config]
  split
  · exact hf.selectBank s v
  · rfl

theorem HiddenFromWrites.deviceWrite_comm (hf : HiddenFromWrites f) (s : State) (a : Addr) (v : Byte) :
    (f s).deviceWrite a v = f (s.deviceWrite a v) := by
  have hcases := (f s).deviceWrite_cases a v
  rw [hf.config] at hcases
  obtain ⟨hd, h⟩ | ⟨hd, h⟩ | ⟨hd, hl, h⟩ | ⟨hd, hl, h⟩ | ⟨hd, h⟩ := hcases <;> rw [h]
  · rw [State.deviceWrite_of_terminal hd, hf.emit]
  · rw [State.deviceWrite_of_bankSel hd, hf.selectBank]
  · rw [hf.emit]
    simp only [State.deviceWrite, hd, hl, State.lcdWrite]
  · rw [hf.emit]
    simp only [State.deviceWrite, hd, hl, State.lcdWrite]
  · rw [State.deviceWrite_of_unregistered hd]

/-- A service does not see an update hidden from everything but device reads, unless it is an IO_READ whose handler sees
it. -/
theorem HiddenButFromReads.effect_comm (hf : HiddenButFromReads f) {i : Instr} {s : State}
    (hread : ∀ a d, i = .ioRead a d → (f s).deviceRead a = ((s.deviceRead a).1, f (s.deviceRead a).2)) :
    effect i (f s) = f (effect i s) := by
  cases i with
  | ioRead a d => simp only [effect, hread a d rfl, hf.respond]
  | ioWrite a d => simp only [effect, hf.hiBankWrite_comm, hf.deviceWrite_comm, hf.respond]
  | memWrite k a d => simp only [effect, hf.memWrite_comm, hf.respond]
  | memRead k a d => simp only [effect, hf.memRead, hf.respond]
  | intAck r w a d => simp only [effect, hf.vector, hf.clearInterrupt, hf.respond]
  | idle | memNone | ioNone => exact hf.respond s _
  | busConflict | memRwConflict | ioRwConflict => exact hf.raiseFault s _

end Hidden

/-! ### Memory cycles (R102) -/

theorem hiddenFromMemory_setIo (p : Bool) (b : Byte) (l : List DeviceEvent) :
    HiddenFromMemory fun s => { s with pending := p, kbd := b, trace := l } := {}

/-- A memory cycle changes RAM, BANKS, FAULT and the answer only. -/
theorem effect_eta_of_memoryCycle {i : Instr} (h : i.request.isMemoryCycle = true) (s : State) :
    effect i s = { s with ram := (effect i s).ram, banks := (effect i s).banks, fault := (effect i s).fault,
                          rsp := (effect i s).rsp } := by
  cases i with
  | memWrite k a d =>
    simp only [effect]
    rw [s.memWrite_eta a d]
    rfl
  | busConflict | memRead | memNone | memRwConflict => rfl
  | idle | intAck | ioRead | ioWrite | ioNone | ioRwConflict => cases h

/-- A memory cycle does not read PENDING, KBD or TRACE: with any other ones it leaves the same memory and fault, and
answers the same data. -/
theorem effect_memoryCycle_setIo {i : Instr} (h : i.request.isMemoryCycle = true) (s : State) (p : Bool) (b : Byte)
    (l : List DeviceEvent) :
    let t := effect i s
    let t' := effect i { s with pending := p, kbd := b, trace := l }
    t'.ram = t.ram ∧ t'.banks = t.banks ∧ t'.fault = t.fault ∧
      (t.fault = none → t'.rsp.map (·.data) = t.rsp.map (·.data)) := by
  have hf := hiddenFromMemory_setIo p b l
  cases i with
  | memWrite k a d =>
    simp only [effect, hf.memWrite_comm s a d]
    exact ⟨rfl, rfl, rfl, fun _ => rfl⟩
  | memRead k a d =>
    simp only [effect, hf.memRead s a]
    exact ⟨rfl, rfl, rfl, fun _ => rfl⟩
  | memNone => exact ⟨rfl, rfl, rfl, fun _ => rfl⟩
  | busConflict | memRwConflict => exact ⟨rfl, rfl, rfl, fun hnone => by cases hnone⟩
  | idle | intAck | ioRead | ioWrite | ioNone | ioRwConflict => cases h

/-- Settles O15: a memory cycle writes no I/O state and its result does not depend on any. -/
theorem memoryCyclesTouchNoIoState : Obligations.MemoryCyclesTouchNoIoState := by
  intro i s t hm h
  obtain ⟨hf, rfl⟩ := exec_eq_next.1 h
  have heta := effect_eta_of_memoryCycle hm s
  refine ⟨?_, ?_, ?_, ?_, ?_, ?_, ?_, fun p b l =>
    ⟨_, exec_of_none i (s := { s with pending := p, kbd := b, trace := l }) hf, effect_memoryCycle_setIo hm s p b l⟩⟩
  all_goals rw [heta]

/-! ### What lies outside the block (R96) -/

theorem hiddenButFromReads_setOutside (l : List Input) (m n : Nat) (r : Bool) :
    HiddenButFromReads fun s => { s with inputs := l, inputDraws := m, lcdDraws := n, running := r } := {}

/-- Settles O44: of the device reads only the LCD's takes a draw. -/
theorem onlyAnLcdReadDependsOnTheOutside : Obligations.OnlyAnLcdReadDependsOnTheOutside := by
  intro i s l m n r hf hlcd
  refine ⟨_, exec_of_none i hf, (exec_of_none i (by exact hf)).trans (congrArg _
    ((hiddenButFromReads_setOutside l m n r).effect_comm fun a d hi => ?_))⟩
  obtain ⟨hd, -⟩ | ⟨hd, -⟩ | ⟨hd, -⟩ := s.deviceRead_cases a
  · rw [State.deviceRead_of_terminal hd, State.deviceRead_of_terminal (by exact hd)]
  · rw [State.deviceRead_eq_sentinel hd, State.deviceRead_eq_sentinel (by exact hd)]
  · exact absurd hd (hlcd a d hi)

/-! ### KBD and PENDING (R34) -/

theorem hiddenButFromReads_setKbd (b : Byte) : HiddenButFromReads fun s => { s with kbd := b } := {}

theorem hiddenFromWrites_setPending (p : Bool) : HiddenFromWrites fun s => { s with pending := p } := {}

/-- A service that is no terminal read does not see KBD. -/
theorem effect_setKbd {i : Instr} {s : State} (b : Byte)
    (hterm : ∀ a d, i = .ioRead a d → s.config.device (s.config.devId a) ≠ some .terminal) :
    effect i { s with kbd := b } = { effect i s with kbd := b } := by
  refine (hiddenButFromReads_setKbd b).effect_comm fun a d hi => ?_
  obtain ⟨hd, -⟩ | ⟨hd, -⟩ | ⟨hd, -⟩ := s.deviceRead_cases a
  · exact absurd hd (hterm a d hi)
  · rw [State.deviceRead_eq_sentinel hd, State.deviceRead_eq_sentinel (by exact hd)]
  · rw [State.deviceRead_of_lcd hd, State.deviceRead_of_lcd (by exact hd)]
    rfl

/-- No device read sees PENDING. -/
theorem State.deviceRead_setPending (s : State) (a : Addr) (p : Bool) :
    State.deviceRead { s with pending := p } a =
      ((s.deviceRead a).1, { (s.deviceRead a).2 with pending := p }) := by
  obtain ⟨hd, -⟩ | ⟨hd, -⟩ | ⟨hd, -⟩ := s.deviceRead_cases a
  · rw [State.deviceRead_of_terminal hd, State.deviceRead_of_terminal (by exact hd)]
  · rw [State.deviceRead_eq_sentinel hd, State.deviceRead_eq_sentinel (by exact hd)]
  · rw [State.deviceRead_of_lcd hd, State.deviceRead_of_lcd (by exact hd)]
    rfl

/-- The two states differ at most in PENDING and in the answer's interrupt-request bit: the same answer when the service
faulted, and else two answers that agree on every other field. -/
def DifferAtPending (t t' : State) : Prop :=
  t' = { t with pending := t'.pending, rsp := t'.rsp } ∧ (t.fault ≠ none → t'.rsp = t.rsp) ∧
    (t.fault = none → ∃ q q', t.rsp = some q ∧ t'.rsp = some q' ∧
      q' = { q with interruptPending := q'.interruptPending })

/-- The same descriptor answered from two states that differ in PENDING alone. -/
theorem differAtPending_respond {u : State} (hu : u.fault = none) (p : Bool) (q : BusRequest) :
    DifferAtPending (u.respond q) (State.respond { u with pending := p } q) :=
  ⟨rfl, fun hne => absurd hu hne, fun _ => ⟨_, _, rfl, rfl, rfl⟩⟩

theorem differAtPending_raiseFault (u : State) (p : Bool) (r : FaultReason) :
    DifferAtPending (u.raiseFault r) (State.raiseFault { u with pending := p } r) :=
  ⟨rfl, fun _ => rfl, fun hnone => by cases hnone⟩

/-- Every service of two states that differ in PENDING alone leaves states that differ in it and in the answer's
interrupt-request bit alone. -/
theorem effect_setPending (i : Instr) {s : State} (hf : s.fault = none) (p : Bool) :
    DifferAtPending (effect i s) (effect i { s with pending := p }) := by
  have hp := hiddenFromWrites_setPending p
  cases i with
  | idle | memRead | memNone | ioNone => exact differAtPending_respond hf p _
  | memWrite k a d =>
    simp only [effect, hp.memWrite_comm s a d]
    exact differAtPending_respond ((s.memWrite_fault a d).trans hf) p _
  | ioRead a d =>
    simp only [effect, s.deviceRead_setPending a p]
    exact differAtPending_respond ((s.deviceRead_fault a).trans hf) p _
  | ioWrite a d =>
    simp only [effect, hp.hiBankWrite_comm s a d, hp.deviceWrite_comm (s.hiBankWrite a d) a d]
    exact differAtPending_respond (by simp [hf]) p _
  | intAck r w a d => exact differAtPending_respond (u := s.clearInterrupt) hf false _
  | busConflict | memRwConflict | ioRwConflict => exact differAtPending_raiseFault s p _

/-- Settles O43: KBD is hidden from every service but a terminal read, and PENDING reaches the answer's level alone. -/
theorem kbdAndPendingShowOnlyWhereTheSpecSays : Obligations.KbdAndPendingShowOnlyWhereTheSpecSays := by
  refine fun i s hf => ⟨fun b hterm => ⟨_, exec_of_none i hf, ?_⟩, fun p =>
    ⟨_, _, exec_of_none i hf, exec_of_none i (s := { s with pending := p }) hf, effect_setPending i hf p⟩⟩
  rw [← effect_setKbd b hterm]
  exact exec_of_none i hf

end Sys2Proof.Machine
end
